-- ==== Sys2Proof/Word.lean ====
section
/-! DEFINITION. The words of the block: bytes, counters, node-time and timer-unit values, sequence numbers. -/

namespace Sys2Proof

/-- A byte of a frame, of the image or of a page. -/
abbrev Byte := BitVec 8

/-- An event counter: 32 bits wide (00_scope.md, Conventions, Counters). -/
abbrev Counter := BitVec 32

/-- A stamp of node time, in µs (R139), or of the timer-unit count (R140). -/
abbrev Stamp := BitVec 32

/-- A sequence number (R26) or a check number (R129). -/
abbrev Seq := BitVec 16

/-- A 48-bit Ethernet address, first transmitted byte in the top bits. -/
abbrev Address := BitVec 48

end Sys2Proof
end

