-- ==== Sys2Proof/Syntax.lean ====
section
/-! DEFINITION. The commands of the block: one constructor of `Instr` for each row of spec/opcode_table.json. -/

namespace Sys2Proof

/-- The three ports (chapter 1). -/
inductive Port where
  | east
  | west
  | tap
  deriving DecidableEq, Repr

/-- The two ports that face the ring. -/
inductive RingPort where
  | east
  | west
  deriving DecidableEq, Repr

/-- The two directions round the ring (R18). -/
inductive Lane where
  | e
  | w
  deriving DecidableEq, Repr

/-- Where an I2C transaction of the loader fails (R171): SDA is held low at the moment of its start condition or of its
repeated start, or the EEPROM does not acknowledge byte `n` of those the loader sends in it, counted from 0. -/
inductive BusFailure where
  | sdaLow
  | sdaLowAgain
  | noAck (n : Nat)
  deriving DecidableEq, Repr

/-- What one image read attempt met on the I2C bus (R171): a failure, or the bytes the EEPROM gave from address 0
onward. -/
inductive ImageRead where
  | failed (f : BusFailure)
  | bytes (given : List Byte)
  deriving DecidableEq, Repr

/-- What one epoch read attempt met on the I2C bus (R178): a failure, or the byte at address 2047. -/
inductive EpochRead where
  | failed (f : BusFailure)
  | byte (b : Byte)
  deriving DecidableEq, Repr

/-- The commands: spec/opcode_table.json, row by row. Operands are what the outside world decides. -/
inductive Instr where
  /-- POWER_ON (R167): power is applied, with the levels of RST, the link inputs and the straps. -/
  | powerOn (rst linkEast linkWest linkTap : Bool) (straps : BitVec 6)
  /-- RST_FALL (R167). -/
  | rstFall
  /-- RST_RISE (R167), with the levels of the NODE straps. -/
  | rstRise (straps : BitVec 6)
  /-- LINK_FALL (R1). -/
  | linkFall (p : Port)
  /-- LINK_RISE (R2). -/
  | linkRise (p : Port)
  /-- QUALIFICATION_EXPIRY (R2). -/
  | qualificationExpiry (p : Port)
  /-- SCAN_WINDOW_END (R12). -/
  | scanWindowEnd (p : Port)
  /-- FRAME_START (R4). -/
  | frameStart (p : Port)
  /-- GIANT (R6): the byte count of the frame in progress exceeds the longest length of its port. -/
  | giant (p : Port)
  /-- FRAME_END (R8): the whole bytes received from the first destination byte on, and the number of
  2-bit RMII steps after the last whole byte. -/
  | frameEnd (p : Port) (bytes : List Byte) (steps : Nat)
  /-- RING_FILTER (R34): the ring filter takes the oldest frame handed over by this ring port. -/
  | ringFilter (p : RingPort)
  /-- PEER_ROLL (R153): the roll unit takes the oldest peer roll that arrived on this ring port. -/
  | peerRoll (p : RingPort)
  /-- OWN_ROLL (R156): the roll unit takes the oldest own roll that arrived on this ring port. -/
  | ownRoll (p : RingPort)
  /-- ROLL_TIMEOUT_EXPIRY (R158). -/
  | rollTimeoutExpiry
  /-- TRANSMITTER_FREE (R95): the arbiter of this port makes its choice. -/
  | transmitterFree (p : Port)
  /-- TRANSMISSION_COMPLETE (R97). -/
  | transmissionComplete (p : Port)
  /-- REPEATER_TX_COMPLETE (R169): the repeater transmission out of this ring port completes. -/
  | repeaterTxComplete (out : RingPort)
  /-- CLASH_HOLD_EXPIRY (R41). -/
  | clashHoldExpiry
  /-- SILENCE_EXPIRY (R76) of the record of this node number. -/
  | silenceExpiry (node : Nat)
  /-- STREAM_TIMER_EXPIRY (R116). -/
  | streamTimerExpiry (slot : Nat)
  /-- LANE_TIMER_EXPIRY (R117). -/
  | laneTimerExpiry (slot : Nat) (lane : Lane)
  /-- START_DEADLINE_EXPIRY (R118). -/
  | startDeadlineExpiry (slot : Nat)
  /-- CHECK_PERIOD_EXPIRY (R130). -/
  | checkPeriodExpiry
  /-- TIME_PERIOD_EXPIRY (R141). -/
  | timePeriodExpiry
  /-- NODE_COMMAND (R181): the report unit reads the oldest frame handed to it. -/
  | nodeCommand
  /-- REPORT (R182): the command at the head of the queue, of code 1, is carried out. -/
  | report
  /-- ROLL (R149): the command at the head of the queue, of code 2, is carried out. -/
  | roll
  /-- HALT_ROLL (R162): the command at the head of the queue, of code 3, is carried out. -/
  | haltRoll
  /-- ZERO (R182): the command at the head of the queue, of code 4, is carried out. -/
  | zero
  /-- RESTART (R182): the command at the head of the queue, of code 5, is carried out. -/
  | restart
  /-- BADCOMMAND (R182): the command at the head of the queue, of any other code, is carried out. -/
  | badCommand
  /-- REPORT_HOLD_EXPIRY (R186). -/
  | reportHoldExpiry
  /-- REPORT_PERIOD_EXPIRY (R186). -/
  | reportPeriodExpiry
  /-- IMAGE_READ_ATTEMPT (R171): the end of an attempt. -/
  | imageReadAttempt (read : ImageRead)
  /-- EPOCH_READ_ATTEMPT (R178): the end of an attempt. -/
  | epochReadAttempt (read : EpochRead)
  /-- EPOCH_WRITE (R178): the end of the write transaction, acknowledged throughout or failed. -/
  | epochWrite (failure : Option BusFailure)
  /-- EPOCH_POLL (R178): the end of a completion poll, acknowledged or not. -/
  | epochPoll (acked : Bool)
  /-- EPOCH_POLL_TIMEOUT (R178). -/
  | epochPollTimeout
  /-- REPEATER_TRANSMITTER_FREE (R169): the transmitter of this ring port takes the next repeater store. -/
  | repeaterTransmitterFree (out : RingPort)
  deriving DecidableEq, Repr

end Sys2Proof
end

