-- ==== Sys2Proof/Config.lean ====
section
/-! DEFINITION. What the manual leaves open: the free values of the model. None has a body, so nothing can be
proved of its value, and a claim holds whatever it is. -/

namespace Sys2Proof.Config

/-- FREE VALUE (log 7, DESIGN CHOICE): the scan window length, in timer units, that a link monitor uses before
the configuration set exists. R168 runs the link monitors in LOADING, R180 gives the configuration set as none
until the end of LOADING, and no rule gives the settings used meanwhile. -/
opaque startWindow : Nat

/-- FREE VALUE (log 7, DESIGN CHOICE): the error bound E used before the configuration set exists. -/
opaque startErrorBound : Nat

/-- FREE VALUE (log 7, DESIGN CHOICE): the good-frame floor G used before the configuration set exists. -/
opaque startFloor : Nat

/-- FREE VALUE (log 21, DESIGN CHOICE): the byte the EEPROM gives for an image address that the operand of
IMAGE_READ_ATTEMPT does not supply. -/
opaque eepromByte : Nat → Byte

end Sys2Proof.Config
end

