-- ==== Sys2Proof/Machine/State.lean ====
section
/-! DEFINITION. The state of the block, as plain data, with the values of every field after a start. A field's
default is its value after a start; the rule that gives it is named where the field stands. -/

namespace Sys2Proof.Machine

/-- Why a step stops. No rule of the manual gives the block an event after which it stops, so there is no fault:
nobody raises one. -/
inductive Fault where
  deriving DecidableEq, Repr

/-- Why a command has no meaning. -/
inductive Refusal where
  /-- Raised by an arm of `exec` whose command has no meaning in the model yet; no arm does. Safe: the machine
  stops where the hardware goes on. -/
  | notModelled (mnemonic : String)
  deriving DecidableEq, Repr

/-! ## Things of which there is one for each port, each ring port or each lane -/

/-- One value for each port. -/
structure PerPort (α : Type) where
  east : α
  west : α
  tap : α
  deriving DecidableEq, Repr

/-- One value for each ring port. -/
structure PerRing (α : Type) where
  east : α
  west : α
  deriving DecidableEq, Repr

/-- One value for each lane. -/
structure PerLane (α : Type) where
  e : α
  w : α
  deriving DecidableEq, Repr

/-! ## Names -/

/-- Port states (section 1.1). -/
inductive PortState where
  | down
  | up
  | degraded
  deriving DecidableEq, Repr

/-- Node states (section 9.1). -/
inductive NodeState where
  | reset
  | loading
  | running
  | fallback
  | transit
  deriving DecidableEq, Repr

/-- Start causes (R167). -/
inductive StartCause where
  | power
  | line
  | command
  deriving DecidableEq, Repr

/-- Image status (R171, R179). -/
inductive ImageStatus where
  | good
  | noAck
  | badMagic
  | badFormat
  | badLength
  | badCrc
  | badLayout
  deriving DecidableEq, Repr

/-- Kinds of ring frame (R20). -/
inductive Kind where
  | data
  | check
  | roll
  | time
  deriving DecidableEq, Repr

/-- Classes (R20). -/
inductive Class where
  | bulk
  | stream
  | urgent
  deriving DecidableEq, Repr

/-- Verdicts of the source table (chapter 4). -/
inductive Verdict where
  | first
  | duplicate
  | repeated
  | stale
  deriving DecidableEq, Repr

/-- The path of a source record (R74). -/
inductive SourcePath where
  | both
  | eastOnly
  | westOnly
  deriving DecidableEq, Repr

/-- Lane states of the ring check unit (R129). -/
inductive LaneState where
  | await
  | closed
  | broken
  deriving DecidableEq, Repr

/-- Ring states (R137). -/
inductive RingState where
  | starting
  | closed
  | opened
  deriving DecidableEq, Repr

/-- Stream status of a watch slot (R109). -/
inductive StreamStatus where
  | await
  | live
  | late
  | lost
  deriving DecidableEq, Repr

/-- Lane status of a watch slot (R109). -/
inductive WatchLane where
  | await
  | up
  | down
  deriving DecidableEq, Repr

/-- Lane results of a roll round (R148); `unresolved` is the manual's OPEN. -/
inductive LaneResult where
  | unresolved
  | returned
  | turned
  | ownPortDown
  | timeout
  deriving DecidableEq, Repr

/-- Causes of a roll round (R148). -/
inductive RollCause where
  | command
  | auto
  | again
  deriving DecidableEq, Repr

/-- Outcomes of a roll round (R159, R160, R162). -/
inductive RollOutcome where
  | noRound
  | closed
  | mismatch
  | opened
  | changed
  | incomplete
  | aborted
  deriving DecidableEq, Repr

/-- What a ROLL BEGIN notice says of a lane (R151). -/
inductive LaneSend where
  | sent
  | ownPortDown
  | refused
  deriving DecidableEq, Repr

/-- Results of a node command (R182). -/
inductive CommandResult where
  | done
  | busy
  | badPage
  | badCommand
  deriving DecidableEq, Repr

/-- The class a watch slot asks for (R108). -/
inductive WatchClass where
  | any
  | urgent
  | stream
  | bulk
  deriving DecidableEq, Repr

/-- The field a delivery filter entry reads (section 3.8). -/
inductive Selector where
  | destination
  | type
  | appid
  deriving DecidableEq, Repr

/-! ## Clock and timers -/

/-- The clocks (R139, R140). `refclk` is the model's own count of REFCLK cycles since the start (log 1). -/
structure Clock where
  refclk : Nat := 0
  nodeTime : Stamp := 0
  timerUnits : Stamp := 0
  deriving DecidableEq, Repr

/-- A running timer: the timer-unit count at which it was started or rearmed, and its interval in timer units
(R140). A stopped timer is `none`. -/
structure Timer where
  start : Stamp
  length : Nat
  deriving DecidableEq, Repr

/-! ## Pins -/

/-- The levels of the input pins, as the commands last told them (log 5, log 6). -/
structure Pins where
  rst : Bool := false
  links : PerPort Bool := ⟨false, false, false⟩
  straps : BitVec 6 := 0
  deriving DecidableEq, Repr

/-! ## Ports (chapter 1) -/

/-- The receiver of a port (section 1.2, R169): IDLE; STORING into a pool buffer; DISCARDING; and, on the repeater
path, writing into a repeater store (`true` is the first store), or taken in and checked but not kept. -/
inductive Receiver where
  | idle
  | storing (buf : Nat)
  | discarding (giant : Bool)
  | repeating (inFirst : Bool)
  | unkept (giant : Bool)
  deriving DecidableEq, Repr

/-- The indications of a port (section 1.4). -/
structure Indications where
  silent : Bool := false
  foreign : Bool := false
  crossed : Bool := false
  pool : Bool := false
  deriving DecidableEq, Repr

/-- The window flags of a port (section 1.4). -/
structure WindowFlags where
  foreign : Bool := false
  crossed : Bool := false
  pool : Bool := false
  deriving DecidableEq, Repr

/-- The receive and link counters of R11. -/
structure PortCounters where
  rxGood : Counter := 0
  giant : Counter := 0
  runt : Counter := 0
  align : Counter := 0
  fcs : Counter := 0
  noBuffer : Counter := 0
  refused : Counter := 0
  cut : Counter := 0
  linkUp : Counter := 0
  linkDown : Counter := 0
  degraded : Counter := 0
  deriving DecidableEq, Repr

/-- A port: state, qualification timer, receiver and link monitor (R17). -/
structure PortUnit where
  state : PortState := .down
  qual : Option Timer := none
  rx : Receiver := .idle
  window : Option Timer := none
  errors : Nat := 0
  good : Nat := 0
  flags : WindowFlags := {}
  ind : Indications := {}
  counters : PortCounters := {}
  deriving DecidableEq, Repr

/-! ## Frames between blocks -/

/-- A frame handed to the ring filter: its buffer and its arrival time (R34). -/
structure Handed where
  buf : Nat
  arrival : Stamp
  deriving DecidableEq, Repr

/-- A roll handed to the roll unit (R38, R47): its buffer, arrival port, and whether its source is this node. -/
structure RollIn where
  buf : Nat
  port : RingPort
  own : Bool
  deriving DecidableEq, Repr

/-! ## Lane tagger (chapter 2) -/

/-- The lane tagger (R33). The own epoch is the loader's. -/
structure Tagger where
  seq : Seq := 0
  originated : Counter := 0
  single : Counter := 0
  isolated : Counter := 0
  deriving DecidableEq, Repr

/-! ## Ring filter (chapter 3) -/

/-- The ring filter's counters of a ring port (R55). -/
structure FilterCounters where
  foreign : Counter := 0
  crossed : Counter := 0
  returned : Counter := 0
  expired : Counter := 0
  delivered : Counter := 0
  blocked : Counter := 0
  forwarded : Counter := 0
  deadEnd : Counter := 0
  deriving DecidableEq, Repr

/-- The ring filter (R56). -/
structure Filter where
  clash : Bool := false
  hold : Option Timer := none
  clashCount : Counter := 0
  counters : PerRing FilterCounters := ⟨{}, {}⟩
  deriving DecidableEq, Repr

/-! ## Source table (chapter 4) -/

/-- The ten counters of a source record (R57). -/
structure SourceCounters where
  firstE : Counter := 0
  firstW : Counter := 0
  duplicates : Counter := 0
  repeats : Counter := 0
  stale : Counter := 0
  missed : Counter := 0
  westSingles : Counter := 0
  eastSingles : Counter := 0
  restarts : Counter := 0
  resyncs : Counter := 0
  deriving DecidableEq, Repr

/-- A source record (R57). Bit k of a map is position k. The defaults are the cleared values of an EMPTY record. -/
structure SourceRecord where
  live : Bool := false
  top : Seq := 0
  span : Nat := 0
  mapE : BitVec 64 := 0
  mapW : BitVec 64 := 0
  epoch : BitVec 4 := 0
  staleRun : Nat := 0
  westMiss : Nat := 0
  eastMiss : Nat := 0
  path : SourcePath := .both
  lastHeard : Stamp := 0
  silence : Option Timer := none
  counters : SourceCounters := {}
  deriving DecidableEq, Repr

/-! ## Frame pool and egress (chapter 5) -/

/-- A buffer in use: its reference count, the frame bytes it holds, and whether they end in a frame check
sequence (R87, R98). -/
structure Buffer where
  refs : Nat
  bytes : List Byte
  hasFcs : Bool
  deriving DecidableEq, Repr

/-- The frame pool (R87, R88, R91): the buffers in use by buffer number, the low-water mark and the node counter
POOL. -/
structure Pool where
  bufs : List (Nat × Buffer) := []
  low : Nat := 256
  refused : Counter := 0
  deriving DecidableEq, Repr

/-- The mark of a queue entry, with its particulars (R92). `ofRestart` tells the LOCAL entry of a RESTART command's
reply (R97, R167). -/
inductive Mark where
  | originated (kind : Kind) (cls : Class) (seq : Seq) (epoch : BitVec 4) (source : BitVec 6)
  | forwarded
  | delivered
  | localFrame (ofRestart : Bool)
  deriving DecidableEq, Repr

/-- A queue entry (R92). `joined` is its enqueue time, which only STREAM entries use (R96). -/
structure Entry where
  buf : Nat
  mark : Mark
  joined : Stamp
  deriving DecidableEq, Repr

/-- A transmitter (R95, R97, R169): free; sending the bytes of a chosen entry until REFCLK cycle `doneAt`; sending
a repeater store; or leaving the gap until cycle `freeAt`. -/
inductive Transmitter where
  | free
  | sending (buf : Nat) (mark : Mark) (bytes : List Byte) (doneAt : Nat)
  | repeating (isFirst : Bool) (bytes : List Byte) (doneAt : Nat)
  | gap (freeAt : Nat)
  deriving DecidableEq, Repr

/-- The egress counters of a port (R105). -/
structure EgressCounters where
  txFrames : Counter := 0
  urgentDrop : Counter := 0
  streamDrop : Counter := 0
  bulkDrop : Counter := 0
  aged : Counter := 0
  flushed : Counter := 0
  deriving DecidableEq, Repr

/-- The egress scheduler of a port (R92, R106): oldest entry first in each queue. `chosen` tells that the arbiter has
made its first choice of the run (R170). -/
structure Egress where
  urgent : List Entry := []
  stream : List Entry := []
  bulk : List Entry := []
  tx : Transmitter := .free
  chosen : Bool := false
  counters : EgressCounters := {}
  deriving DecidableEq, Repr

/-! ## Repeater (chapter 9) -/

/-- A repeater store (R169). -/
inductive Store where
  | free
  | receiving
  | holding (bytes : List Byte)
  deriving DecidableEq, Repr

/-- A direction of the repeater path, named by the ring port its frames arrive on (R169): two stores, the waiting
frames in send order (`true` is the first store), REPEATED and REPEAT-LOST. -/
structure Direction where
  first : Store := .free
  second : Store := .free
  order : List Bool := []
  repeated : Counter := 0
  lost : Counter := 0
  deriving DecidableEq, Repr

/-! ## Stream watch (chapter 6) -/

/-- A lane record of a watch slot (R109). -/
structure LaneRecord where
  seq : Seq
  arrival : Stamp
  deriving DecidableEq, Repr

/-- A lane of a watch slot (R109). -/
structure SlotLane where
  status : WatchLane := .await
  miss : Nat := 0
  timer : Option Timer := none
  record : Option LaneRecord := none
  deriving DecidableEq, Repr

/-- The configuration of a watch slot (R108). -/
structure WatchConfig where
  source : BitVec 6 := 0
  cls : WatchClass := .any
  appid : BitVec 16 := 0
  mask : BitVec 16 := 0
  interval : BitVec 16 := 0
  allowN : Nat := 0
  allowM : Nat := 0
  required : Bool := false
  deriving DecidableEq, Repr

/-- A watch slot (R109, R124, R127). -/
structure Slot where
  inUse : Bool := false
  config : WatchConfig := {}
  status : StreamStatus := .await
  miss : Nat := 0
  timer : Option Timer := none
  deadline : Option Timer := none
  lanes : PerLane SlotLane := ⟨{}, {}⟩
  arrivals : Counter := 0
  late : Counter := 0
  lost : Counter := 0
  laneDown : Counter := 0
  deriving DecidableEq, Repr

/-! ## Ring check unit and time base (chapter 7) -/

/-- A lane's latency record (R129); `present` is false while it is absent. -/
structure Latency where
  present : Bool := false
  last : Stamp := 0
  max : Stamp := 0
  deriving DecidableEq, Repr

/-- A lane of the ring check unit (R129, R145). -/
structure CheckLane where
  state : LaneState := .await
  miss : Nat := 0
  returned : Bool := false
  latency : Latency := {}
  sent : Counter := 0
  returns : Counter := 0
  lateCheck : Counter := 0
  breaks : Counter := 0
  deriving DecidableEq, Repr

/-- The ring check unit (R129, R146). -/
structure RingCheck where
  number : Seq := 0
  period : Option Timer := none
  lanes : PerLane CheckLane := ⟨{}, {}⟩
  ring : RingState := .starting
  deriving DecidableEq, Repr

/-- The time base (R141, R142, R146). `lastCorrection` is a signed 32-bit value in two's complement (R191). -/
structure TimeBase where
  period : Option Timer := none
  lastCorrection : BitVec 32 := 0
  lastLoad : Stamp := 0
  loads : Counter := 0
  sent : Counter := 0
  deriving DecidableEq, Repr

/-! ## Roll unit (chapter 8) -/

/-- A roll entry (R153, R193). -/
structure RollEntry where
  number : Byte
  eastUp : Bool
  westUp : Bool
  eastDegraded : Bool
  westDegraded : Bool
  ring : RingState
  lostSlots : Byte
  deriving DecidableEq, Repr

/-- A lane of a roll round: result, list and FULL flag (R148). -/
structure RollLane where
  result : LaneResult := .unresolved
  entries : List RollEntry := []
  full : Bool := false
  deriving DecidableEq, Repr

/-- The ring map (R160, R166). -/
structure RingMap where
  outcome : RollOutcome := .noRound
  number : Byte := 0
  endTime : Stamp := 0
  lanes : PerLane RollLane := ⟨{}, {}⟩
  eastEnd : Option Byte := none
  westEnd : Option Byte := none
  deriving DecidableEq, Repr

/-- The roll unit's counters (R165). -/
structure RollCounters where
  rounds : Counter := 0
  aborted : Counter := 0
  appended : Counter := 0
  loops : Counter := 0
  turned : Counter := 0
  secondBreak : Counter := 0
  lateRoll : Counter := 0
  stray : Counter := 0
  deriving DecidableEq, Repr

/-- The roll unit as originator (R148, R166). -/
structure RollUnit where
  running : Bool := false
  number : Byte := 0
  again : Bool := false
  cause : RollCause := .command
  lanes : PerLane RollLane := ⟨{}, {}⟩
  timeout : Option Timer := none
  map : RingMap := {}
  counters : RollCounters := {}
  deriving DecidableEq, Repr

/-! ## Loader (chapter 9) -/

/-- The warnings of the loader (R179). -/
structure Warnings where
  badProfile : Bool := false
  clamped : Bool := false
  extraEntries : Bool := false
  nodeStrapped : Bool := false
  badAddress : Bool := false
  epochRead : Bool := false
  epochWrite : Bool := false
  deriving DecidableEq, Repr

/-- The ten profile settings (R173), each in the steps the image counts it in: `aging`, `rollTimeout` and
`scanWindow` in 10 ms, `streamAge` in 100 µs, `checkPeriod` in 1 ms. -/
structure Profile where
  checkPeriod : Nat := 10
  missLimit : Nat := 3
  aging : Nat := 50
  streakLimit : Nat := 8
  rollTimeout : Nat := 20
  scanWindow : Nat := 10
  hopLimit : Nat := 62
  errorBound : Nat := 10
  goodFloor : Nat := 0
  streamAge : Nat := 0
  deriving DecidableEq, Repr

/-- An entry of the delivery filter (section 3.8). For TYPE and APPID the low 16 bits of value and mask are
used. -/
structure FilterEntry where
  selector : Selector
  value : BitVec 48
  mask : BitVec 48
  pass : Bool
  deriving DecidableEq, Repr

/-- The configuration set (R173 to R177, R197), with the node number of R176. The defaults are the fallback values
of R177 for node number 0. -/
structure Settings where
  nodeNumber : BitVec 6 := 0
  profile : Profile := {}
  originTag : BitVec 32 := 0
  control : Address := 0x020000000000
  controlType : BitVec 16 := 0xB7C2
  timeSource : BitVec 6 := 0
  timePeriod : Nat := 100
  hopAllowance : Byte := 0
  reportPeriod : Nat := 10
  alarmMask : BitVec 9 := 0
  autoRoll : Bool := false
  classMap : List (BitVec 16 × Class) := []
  filterPass : Bool := true
  filter : List FilterEntry := []
  deriving DecidableEq, Repr

/-- What the loader has decided before the epoch write-back (R173 to R178): the configuration set, the watch slots
and the node state that ends LOADING. -/
structure Draft where
  settings : Settings
  watch : List WatchConfig
  next : NodeState
  deriving DecidableEq, Repr

/-- What the loader is doing on the I2C bus: nothing, an image read attempt, an epoch read attempt after so many
failed ones, the epoch write, or completion polling (R171, R178). -/
inductive LoadPhase where
  | idle
  | image
  | epochRead (failed : Nat)
  | epochWrite
  | epochPoll
  deriving DecidableEq, Repr

/-- An operation of the I2C bus: a start or repeated start, a stop, a byte sent, or `n` bytes read, each acknowledged
but the last one where `lastAcked` is false (R171, R178). -/
inductive BusOp where
  | start
  | stop
  | send (b : Byte)
  | read (n : Nat) (lastAcked : Bool)
  deriving DecidableEq, Repr

/-- The loader (R179, R180). `bus` holds the I2C operations of the transaction whose end the last command of the loader
told, from its start condition on, and then a stop condition that was owed (R167; log 26). -/
structure Loader where
  nodeState : NodeState := .reset
  cause : StartCause := .power
  imageStatus : ImageStatus := .noAck
  attempts : Nat := 0
  profile : BitVec 2 := 0
  overrides : BitVec 10 := 0
  warnings : Warnings := {}
  clampCount : Nat := 0
  strap : BitVec 6 := 0
  storedEpoch : Byte := 0
  ownEpoch : BitVec 4 := 0
  phase : LoadPhase := .idle
  draft : Option Draft := none
  config : Option Settings := none
  pollTimer : Option Timer := none
  bus : List BusOp := []
  stopFirst : Bool := false
  deriving DecidableEq, Repr

/-! ## Report unit (chapter 10) -/

/-- An item of the pending change list: a kind and an index (R185). -/
inductive Item where
  | port (p : Port)
  | clash
  | source (node : Nat)
  | slot (n : Nat)
  | lane (l : Lane)
  | ring
  | roll
  | nodeState
  deriving DecidableEq, Repr

/-- A roll notice (R151, R161, R162). -/
inductive Notice where
  | begins (number : Byte) (cause : RollCause) (laneE laneW : LaneSend)
  | ends (number : Byte) (outcome : RollOutcome) (eastEnd westEnd : Option Byte)
  deriving DecidableEq, Repr

/-- A command of the command queue (R181, R195): its code, page and source address, its result once it has been
carried out, and whether its reply has been made (R183). -/
structure Command where
  code : Byte
  page : Byte
  source : Address
  result : Option CommandResult := none
  replied : Bool := false
  deriving DecidableEq, Repr

/-- The report unit's counters (R190). -/
structure ReportCounters where
  commands : Counter := 0
  ignored : Counter := 0
  cmdDrop : Counter := 0
  done : Counter := 0
  busy : Counter := 0
  badPage : Counter := 0
  badCommand : Counter := 0
  reports : Counter := 0
  noticeDrop : Counter := 0
  deriving DecidableEq, Repr

/-- The report unit (R190). A hold that is `none` is run out. `restartDue` is the model's own flag, false between
steps: the LOCAL entry of a RESTART command's reply has ended in this event (R167). -/
structure ReportUnit where
  queue : List Command := []
  changes : List Item := []
  more : Bool := false
  notices : List Notice := []
  hold : Option Timer := none
  period : Option Timer := none
  periodDue : Bool := false
  conditions : BitVec 10 := 0
  alarm : Bool := false
  healthy : Bool := false
  restartDue : Bool := false
  counters : ReportCounters := {}
  deriving DecidableEq, Repr

/-! ## The block -/

/-- The state of the block. `pending` is the queue of the commands that wait, first in, first out. -/
structure State where
  pending : List Instr := []
  pins : Pins := {}
  clock : Clock := {}
  loader : Loader := {}
  ports : PerPort PortUnit := ⟨{}, {}, {}⟩
  handed : PerRing (List Handed) := ⟨[], []⟩
  rollIn : List RollIn := []
  commandIn : List Nat := []
  tagger : Tagger := {}
  filter : Filter := {}
  sources : Vector SourceRecord 62 := Vector.replicate 62 {}
  pool : Pool := {}
  egress : PerPort Egress := ⟨{}, {}, {}⟩
  repeater : PerRing Direction := ⟨{}, {}⟩
  slots : Vector Slot 32 := Vector.replicate 32 {}
  check : RingCheck := {}
  time : TimeBase := {}
  roll : RollUnit := {}
  report : ReportUnit := {}
  deriving DecidableEq, Repr

/-- The block right after power is applied with RST low and every link input low: the node is in RESET with every
block at its value after a start (R167; the pin levels are log 6). -/
def State.reset : State := {}

end Sys2Proof.Machine
end

