-- ==== Sys2Proof/Machine/Operands.lean ====
section
/-! DEFINITION. The operands of the block: bytes and multi-byte fields (R191), the three check sequences (R7, R21,
R172), the fields of a frame (R23, R192 to R194) and the codes of section 11.5. -/

namespace Sys2Proof

/-! ## Ports and lanes -/

/-- A ring port as a port. -/
def RingPort.port : RingPort → Port
  | .east => .east
  | .west => .west

/-- The ring port opposite a ring port. -/
def RingPort.opposite : RingPort → RingPort
  | .east => .west
  | .west => .east

/-- The port as a ring port, where it is one. -/
def Port.ring? : Port → Option RingPort
  | .east => some .east
  | .west => some .west
  | .tap => none

/-- The lane of the copies a ring port originates (R18). -/
def RingPort.lane : RingPort → Lane
  | .east => .e
  | .west => .w

/-- The ring port a lane's copies leave by (R18). -/
def Lane.ownPort : Lane → RingPort
  | .e => .east
  | .w => .west

/-- The other lane. -/
def Lane.other : Lane → Lane
  | .e => .w
  | .w => .e

/-- The value of a lane in the trailer (R18). -/
def Lane.bit : Lane → BitVec 1
  | .e => 0
  | .w => 1

end Sys2Proof

namespace Sys2Proof.Machine

/-! ## Selecting a port, ring port or lane -/

def PerPort.get {α : Type} (x : PerPort α) : Port → α
  | .east => x.east
  | .west => x.west
  | .tap => x.tap

def PerPort.set {α : Type} (x : PerPort α) (p : Port) (a : α) : PerPort α :=
  match p with
  | .east => { x with east := a }
  | .west => { x with west := a }
  | .tap => { x with tap := a }

def PerRing.get {α : Type} (x : PerRing α) : RingPort → α
  | .east => x.east
  | .west => x.west

def PerRing.set {α : Type} (x : PerRing α) (p : RingPort) (a : α) : PerRing α :=
  match p with
  | .east => { x with east := a }
  | .west => { x with west := a }

def PerLane.get {α : Type} (x : PerLane α) : Lane → α
  | .e => x.e
  | .w => x.w

def PerLane.set {α : Type} (x : PerLane α) (l : Lane) (a : α) : PerLane α :=
  match l with
  | .e => { x with e := a }
  | .w => { x with w := a }

/-! ## Bytes and multi-byte fields (R191) -/

/-- The low `n` bytes of a number, most significant byte first. -/
def beBytes : Nat → Nat → List Byte
  | 0, _ => []
  | n + 1, x => BitVec.ofNat 8 (x >>> (8 * n)) :: beBytes n x

/-- The number that bytes spell, most significant byte first. -/
def beNat (bs : List Byte) : Nat := bs.foldl (fun a b => 256 * a + b.toNat) 0

/-- Byte `i` of a frame, image or payload. -/
def byteAt (bs : List Byte) (i : Nat) : Byte := bs.getD i 0

/-- The `n`-byte field at offset `i`. -/
def fieldAt (bs : List Byte) (i n : Nat) : Nat := beNat ((bs.drop i).take n)

/-- `n` zero bytes. -/
def zeros (n : Nat) : List Byte := List.replicate n 0

/-- Content padded with zero bytes to 60 bytes (R191, R101). -/
def pad60 (bs : List Byte) : List Byte := bs ++ zeros (60 - bs.length)

/-- A flag as a byte, 0 or 1. -/
def flagByte (b : Bool) : Byte := if b then 1 else 0

/-- A small number as a byte. -/
def natByte (n : Nat) : Byte := BitVec.ofNat 8 n

/-! ## Check sequences -/

/-- One bit of the FCS register (R7): least significant bit first, so the generator stands reflected. -/
def crc32Bit (r : BitVec 32) : BitVec 32 :=
  if r.getLsbD 0 then (r >>> 1) ^^^ 0xEDB88320#32 else r >>> 1

def crc32Byte (r : BitVec 32) (b : Byte) : BitVec 32 :=
  Nat.repeat crc32Bit 8 (r ^^^ b.setWidth 32)

/-- The frame check sequence value of R7: preset to all ones, final register inverted. -/
def crc32 (bs : List Byte) : BitVec 32 := ~~~ (bs.foldl crc32Byte 0xFFFFFFFF#32)

/-- The four FCS bytes, least significant byte first (R7). -/
def fcsBytes (bs : List Byte) : List Byte := (beBytes 4 (crc32 bs).toNat).reverse

/-- A frame of these bytes followed by its FCS. -/
def withFcs (bs : List Byte) : List Byte := bs ++ fcsBytes bs

/-- The FCS check of R7: the last four bytes equal the FCS of the bytes before them. -/
def fcsOk (frame : List Byte) : Bool :=
  frame.drop (frame.length - 4) == fcsBytes (frame.take (frame.length - 4))

/-- One bit of the trailer check (R21): most significant bit first. -/
def crc8Bit (r : BitVec 8) : BitVec 8 := if r.getLsbD 7 then (r <<< 1) ^^^ 0x07#8 else r <<< 1

/-- The CRC-8 of the trailer check (R21). -/
def crc8 (bs : List Byte) : Byte := bs.foldl (fun r b => Nat.repeat crc8Bit 8 (r ^^^ b)) 0

/-- One bit of the image CRC (R172): least significant bit first, so the generator stands reflected. -/
def crc16Bit (r : BitVec 16) : BitVec 16 :=
  if r.getLsbD 0 then (r >>> 1) ^^^ 0xA001#16 else r >>> 1

/-- The CRC-16 of the image (R172): preset to all ones, no final inversion. -/
def crc16 (bs : List Byte) : BitVec 16 :=
  bs.foldl (fun r b => Nat.repeat crc16Bit 8 (r ^^^ b.setWidth 16)) 0xFFFF#16

/-! ## Fields of a frame (R23) -/

/-- The frame carries a priority tag (R23). -/
def tagged (f : List Byte) : Bool := fieldAt f 12 2 == 0x8100

/-- The priority of a tagged frame: the top three bits of byte 14 (R23). -/
def tagPriority (f : List Byte) : Nat := (byteAt f 14).toNat / 32

/-- Where the type field starts (R23). -/
def typeOffset (f : List Byte) : Nat := if tagged f then 16 else 12

/-- The type field (R23). -/
def typeField (f : List Byte) : BitVec 16 := BitVec.ofNat 16 (fieldAt f (typeOffset f) 2)

/-- The APPID: the two bytes after the type field (R23). -/
def appidField (f : List Byte) : BitVec 16 := BitVec.ofNat 16 (fieldAt f (typeOffset f + 2) 2)

/-- The destination address, bytes 0 to 5. -/
def destination (f : List Byte) : Address := BitVec.ofNat 48 (fieldAt f 0 6)

/-- The source address, bytes 6 to 11. -/
def sourceAddress (f : List Byte) : Address := BitVec.ofNat 48 (fieldAt f 6 6)

/-- The command code of a node command: the byte after the type field (R194). -/
def commandCode (f : List Byte) : Byte := byteAt f (typeOffset f + 2)

/-- The page number of a node command: the byte after the code (R194). -/
def commandPage (f : List Byte) : Byte := byteAt f (typeOffset f + 3)

/-! ## The path trailer (R20, R192) -/

/-- The fields of a path trailer as they stand on the wire (R192). -/
structure Trailer where
  seq : Seq
  source : BitVec 6
  spare : BitVec 2
  epoch : BitVec 4
  kind : BitVec 3
  lane : Lane
  hops : BitVec 6
  cls : BitVec 2
  deriving DecidableEq, Repr

/-- The first five trailer bytes (R192). -/
def Trailer.fields (t : Trailer) : List Byte :=
  beBytes 2 t.seq.toNat ++ [t.source ++ t.spare, t.epoch ++ t.kind ++ t.lane.bit, t.hops ++ t.cls]

/-- The six trailer bytes, with the check computed over the five before it (R21, R192). -/
def Trailer.encode (t : Trailer) : List Byte := t.fields ++ [crc8 t.fields]

/-- The trailer that six bytes spell (R192). -/
def Trailer.parse (bs : List Byte) : Trailer where
  seq := BitVec.ofNat 16 (fieldAt bs 0 2)
  source := (byteAt bs 2).extractLsb' 2 6
  spare := (byteAt bs 2).extractLsb' 0 2
  epoch := (byteAt bs 3).extractLsb' 4 4
  kind := (byteAt bs 3).extractLsb' 1 3
  lane := if (byteAt bs 3).getLsbD 0 then .w else .e
  hops := (byteAt bs 4).extractLsb' 2 6
  cls := (byteAt bs 4).extractLsb' 0 2

/-- The check byte agrees (R35). -/
def trailerCheckOk (bs : List Byte) : Bool := crc8 (bs.take 5) == byteAt bs 5

/-- The bytes of a ring frame before its trailer: the trailer is found ten bytes from the frame's end, less four
when the buffer holds no FCS (R192). -/
def Buffer.body (b : Buffer) : List Byte := b.bytes.take (b.bytes.length - if b.hasFcs then 10 else 6)

/-- The frame data of a buffer: its bytes without the FCS, if it holds one (R98, R101). -/
def Buffer.data (b : Buffer) : List Byte := b.bytes.take (b.bytes.length - if b.hasFcs then 4 else 0)

/-- The six trailer bytes of a ring frame in a buffer (R192). -/
def Buffer.trailerBytes (b : Buffer) : List Byte := b.data.drop b.body.length

/-- The trailer of a ring frame in a buffer. -/
def Buffer.trailer (b : Buffer) : Trailer := Trailer.parse b.trailerBytes

/-- The kind a trailer's kind field names (R20); 4 to 7 name none. -/
def kindOfCode (k : BitVec 3) : Option Kind :=
  if k = 0 then some .data else if k = 1 then some .check else if k = 2 then some .roll
  else if k = 3 then some .time else none

def Kind.code : Kind → BitVec 3
  | .data => 0
  | .check => 1
  | .roll => 2
  | .time => 3

/-- The class a trailer's class field is read as; 3 is read as BULK (R20). -/
def classOfField (c : BitVec 2) : Class :=
  if c = 1 then .stream else if c = 2 then .urgent else .bulk

def Class.code : Class → BitVec 2
  | .bulk => 0
  | .stream => 1
  | .urgent => 2

/-! ## Codes of section 11.5 -/

def NodeState.code : NodeState → Byte
  | .reset => 0
  | .loading => 1
  | .running => 2
  | .fallback => 3
  | .transit => 4

def StartCause.code : StartCause → Byte
  | .power => 0
  | .line => 1
  | .command => 2

def ImageStatus.code : ImageStatus → Byte
  | .good => 0
  | .noAck => 1
  | .badMagic => 2
  | .badFormat => 3
  | .badLength => 4
  | .badCrc => 5
  | .badLayout => 6

/-- The warnings byte (section 11.5, bits 0 to 6). -/
def Warnings.code (w : Warnings) : Byte :=
  flagByte w.badProfile ||| flagByte w.clamped <<< 1 ||| flagByte w.extraEntries <<< 2 |||
  flagByte w.nodeStrapped <<< 3 ||| flagByte w.badAddress <<< 4 ||| flagByte w.epochRead <<< 5 |||
  flagByte w.epochWrite <<< 6

/-- Any warning is held (R188, CONFIG). -/
def Warnings.held (w : Warnings) : Bool :=
  w.badProfile || w.clamped || w.extraEntries || w.nodeStrapped || w.badAddress || w.epochRead || w.epochWrite

def PortState.code : PortState → Byte
  | .down => 0
  | .up => 1
  | .degraded => 2

/-- The indications byte (R196). -/
def Indications.code (i : Indications) : Byte :=
  flagByte i.silent ||| flagByte i.foreign <<< 1 ||| flagByte i.crossed <<< 2 ||| flagByte i.pool <<< 3

def LaneState.code : LaneState → Byte
  | .await => 0
  | .closed => 1
  | .broken => 2

def RingState.code : RingState → Byte
  | .starting => 0
  | .closed => 1
  | .opened => 2

/-- A received ring state code: a code without meaning is read as the lowest (R191). -/
def ringStateOfCode (b : Byte) : RingState :=
  if b = 1 then .closed else if b = 2 then .opened else .starting

def SourcePath.code : SourcePath → Byte
  | .both => 0
  | .eastOnly => 1
  | .westOnly => 2

def StreamStatus.code : StreamStatus → Byte
  | .await => 0
  | .live => 1
  | .late => 2
  | .lost => 3

def WatchLane.code : WatchLane → Byte
  | .await => 0
  | .up => 1
  | .down => 2

def LaneResult.code : LaneResult → Byte
  | .unresolved => 0
  | .returned => 1
  | .turned => 2
  | .ownPortDown => 3
  | .timeout => 4

def RollOutcome.code : RollOutcome → Byte
  | .noRound => 0
  | .closed => 1
  | .mismatch => 2
  | .opened => 3
  | .changed => 4
  | .incomplete => 5
  | .aborted => 6

def RollCause.code : RollCause → Byte
  | .command => 0
  | .auto => 1
  | .again => 2

def LaneSend.code : LaneSend → Byte
  | .sent => 0
  | .ownPortDown => 1
  | .refused => 2

def CommandResult.code : CommandResult → Byte
  | .done => 0
  | .busy => 1
  | .badPage => 2
  | .badCommand => 3

def WatchClass.code : WatchClass → Byte
  | .any => 0
  | .urgent => 1
  | .stream => 2
  | .bulk => 3

/-! ## Roll payload (R193) -/

/-- The flags byte of a roll (byte 16). -/
def rollFlags (f : List Byte) : Byte := byteAt f 16

/-- TURNED, bit 7 of the roll flags (R193). -/
def rollTurned (f : List Byte) : Bool := (rollFlags f).getLsbD 7

/-- FULL, bit 6 of the roll flags (R193). -/
def rollFull (f : List Byte) : Bool := (rollFlags f).getLsbD 6

/-- The entry count of a roll (byte 17). -/
def rollCount (f : List Byte) : Nat := (byteAt f 17).toNat

/-- A roll entry as four bytes (R193). -/
def RollEntry.encode (r : RollEntry) : List Byte :=
  [r.number,
   flagByte r.eastUp <<< 7 ||| flagByte r.westUp <<< 6 ||| flagByte r.eastDegraded <<< 5 |||
     flagByte r.westDegraded <<< 4,
   r.ring.code, r.lostSlots]

/-- The roll entry that starts at an offset (R193). -/
def rollEntryAt (f : List Byte) (i : Nat) : RollEntry where
  number := byteAt f i
  eastUp := (byteAt f (i + 1)).getLsbD 7
  westUp := (byteAt f (i + 1)).getLsbD 6
  eastDegraded := (byteAt f (i + 1)).getLsbD 5
  westDegraded := (byteAt f (i + 1)).getLsbD 4
  ring := ringStateOfCode (byteAt f (i + 2))
  lostSlots := byteAt f (i + 3)

/-- The entries a roll's count gives (R193). -/
def rollEntries (f : List Byte) : List RollEntry :=
  (List.range (rollCount f)).map fun i => rollEntryAt f (18 + 4 * i)

/-- The list fits: the count is at most 62 and the entries end before the trailer (R153, R156). `f` is the frame up
to its trailer. -/
def rollListFits (f : List Byte) : Bool := rollCount f ≤ 62 && 18 + 4 * rollCount f ≤ f.length

end Sys2Proof.Machine
end

