-- ==== Sys2Proof/Machine/Ops.lean ====
section
/-! DEFINITION. The shared operations: counters, timers, the settings in force, the change list, the frame pool and
the class queues. -/

namespace Sys2Proof.Machine

/-! ## Counters and timers -/

/-- An event counter raised by `n`: it stops at 4,294,967,295 (00_scope.md, Counters). -/
def raiseBy (n : Nat) (c : Counter) : Counter :=
  if c.toNat + n < 4294967295 then BitVec.ofNat 32 (c.toNat + n) else 4294967295

/-- An event counter raised by 1. -/
def raise (c : Counter) : Counter := raiseBy 1 c

/-- A timer started now with an interval of `n` timer units (R140). -/
def Clock.timer (c : Clock) (n : Nat) : Timer := ⟨c.timerUnits, n⟩

/-- The timer units since a timer was started or rearmed, modulo 2^32 (R140). -/
def Clock.elapsed (c : Clock) (t : Timer) : Nat := (c.timerUnits - t.start).toNat

/-- A timer is due: its interval has passed since it was started or rearmed (R140). A stopped timer is not due. -/
def Clock.due (c : Clock) : Option Timer → Bool
  | none => false
  | some t => t.length ≤ c.elapsed t

/-- The timer rearmed at its expiry, with its next expiry `n` units after that expiry (R120, R130). -/
def Timer.rearm (t : Timer) (n : Nat) : Timer := ⟨t.start + BitVec.ofNat 32 t.length, n⟩

/-- A running timer rearmed at its expiry. -/
def rearmed (t : Option Timer) (n : Nat) : Option Timer := t.map fun t => t.rearm n

/-- One cycle of REFCLK: node time advances every 50 cycles and the timer-unit count every 500 (R139, R140). -/
def Clock.tick (c : Clock) : Clock where
  refclk := c.refclk + 1
  nodeTime := if (c.refclk + 1) % 50 = 0 then c.nodeTime + 1 else c.nodeTime
  timerUnits := if (c.refclk + 1) % 500 = 0 then c.timerUnits + 1 else c.timerUnits

/-- What one step does on an empty queue of commands: one cycle of REFCLK passes (log 1). -/
def State.tick (s : State) : State := { s with clock := s.clock.tick }

/-- A command is put at the front of the queue. -/
def State.queueFront (s : State) (c : Instr) : State := { s with pending := c :: s.pending }

/-! ## Settings in force -/

/-- The configuration set of the run (R179). -/
def State.cfg (s : State) : Settings := s.loader.config.getD {}

/-- The node is RUNNING or FALLBACK: a ring member (section 9.1). -/
def State.member (s : State) : Bool :=
  s.loader.nodeState == .running || s.loader.nodeState == .fallback

/-- Scan window W in timer units (R12, R173); before the configuration set exists a free value (log 7). -/
def State.windowLength (s : State) : Nat :=
  match s.loader.config with
  | some c => c.profile.scanWindow * 1000
  | none => Config.startWindow

/-- Error bound E (R13); before the configuration set exists a free value (log 7). -/
def State.errorBound (s : State) : Nat :=
  match s.loader.config with
  | some c => c.profile.errorBound
  | none => Config.startErrorBound

/-- Good-frame floor G (R14); before the configuration set exists a free value (log 7). -/
def State.goodFloor (s : State) : Nat :=
  match s.loader.config with
  | some c => c.profile.goodFloor
  | none => Config.startFloor

/-! ## Updates of one part -/

/-- The port unit of a port. -/
def State.port (s : State) (p : Port) : PortUnit := s.ports.get p

def State.setPort (s : State) (p : Port) (u : PortUnit) : State := { s with ports := s.ports.set p u }

/-- The egress scheduler of a port. -/
def State.eg (s : State) (p : Port) : Egress := s.egress.get p

def State.setEg (s : State) (p : Port) (e : Egress) : State := { s with egress := s.egress.set p e }

/-- The port counters of R11 changed by `f`. -/
def State.countPort (s : State) (p : Port) (f : PortCounters → PortCounters) : State :=
  s.setPort p { s.port p with counters := f (s.port p).counters }

/-- The ring filter's counters of a ring port changed by `f`. -/
def State.countFilter (s : State) (p : RingPort) (f : FilterCounters → FilterCounters) : State :=
  { s with filter := { s.filter with counters := s.filter.counters.set p (f (s.filter.counters.get p)) } }

/-- The egress counters of a port changed by `f`. -/
def State.countEg (s : State) (p : Port) (f : EgressCounters → EgressCounters) : State :=
  s.setEg p { s.eg p with counters := f (s.eg p).counters }

/-- The roll unit's counters changed by `f`. -/
def State.countRoll (s : State) (f : RollCounters → RollCounters) : State :=
  { s with roll := { s.roll with counters := f s.roll.counters } }

/-- The report unit's counters changed by `f`. -/
def State.countReport (s : State) (f : ReportCounters → ReportCounters) : State :=
  { s with report := { s.report with counters := f s.report.counters } }

/-- A port is DOWN. -/
def State.isDown (s : State) (p : Port) : Bool := (s.port p).state == .down

/-- Either ring port is DOWN. -/
def State.ringPortDown (s : State) : Bool := s.isDown .east || s.isDown .west

/-! ## The pending change list (R185) -/

/-- An item is noted: unchanged when the list holds it, dropped with MORE set when the list holds 16 others, else it
joins the tail (R185). The list takes items in every node state after RESET. -/
def note (i : Item) (s : State) : State :=
  if s.loader.nodeState = .reset ∨ i ∈ s.report.changes then s
  else if s.report.changes.length < 16 then
    { s with report := { s.report with changes := s.report.changes ++ [i] } }
  else { s with report := { s.report with more := true } }

/-- An item is noted when a condition holds. -/
def noteIf (c : Bool) (i : Item) (s : State) : State := if c then note i s else s

/-! ## The frame pool (R87, R88) -/

/-- The free count (R87). -/
def Pool.free (p : Pool) : Nat := 256 - p.bufs.length

/-- A buffer of the pool, if it is in use. -/
def Pool.get? (p : Pool) (i : Nat) : Option Buffer := p.bufs.lookup i

/-- Where a new buffer goes: the lowest number at or above `n` not in use, and the list with it (log 15). -/
def insertBuffer (b : Buffer) : Nat → List (Nat × Buffer) → Nat × List (Nat × Buffer)
  | n, [] => (n, [(n, b)])
  | n, (k, c) :: rest =>
    if k = n then
      let r := insertBuffer b (n + 1) rest
      (r.1, (k, c) :: r.2)
    else (n, (n, b) :: (k, c) :: rest)

/-- A buffer leaves the pool with count 1, and the low-water mark follows (R88). -/
def Pool.take (p : Pool) : Nat × Pool :=
  let r := insertBuffer ⟨1, [], false⟩ 0 p.bufs
  (r.1, { p with bufs := r.2, low := min p.low (256 - r.2.length) })

/-- A buffer in use changed by `f`. -/
def Pool.modify (p : Pool) (i : Nat) (f : Buffer → Buffer) : Pool :=
  { p with bufs := p.bufs.map fun kb => if kb.1 = i then (kb.1, f kb.2) else kb }

/-- One more hold on a buffer (R87). -/
def Pool.addHold (p : Pool) (i : Nat) : Pool := p.modify i fun b => { b with refs := b.refs + 1 }

/-- A hold on a buffer ends without passing on: the count falls by 1, and at 0 the buffer returns (R87). -/
def Pool.release (p : Pool) (i : Nat) : Pool :=
  { p with
    bufs := p.bufs.filterMap fun kb =>
      if kb.1 = i then
        if kb.2.refs ≤ 1 then none else some (kb.1, { kb.2 with refs := kb.2.refs - 1 })
      else some kb }

/-- Canonical form of the pool: buffer numbers below 256, strictly rising, every reference count at least 1 (R87). -/
def Pool.wf (p : Pool) : Bool :=
  p.bufs.all (fun kb => kb.1 < 256 && 1 ≤ kb.2.refs) &&
    decide (p.bufs.Pairwise fun a b => a.1 < b.1)

def State.free (s : State) : Nat := s.pool.free

/-- A hold ends. -/
def release (i : Nat) (s : State) : State := { s with pool := s.pool.release i }

/-- The content of a buffer, empty when it is not in use. -/
def State.buffer (s : State) (i : Nat) : Buffer := (s.pool.get? i).getD ⟨0, [], false⟩

/-- The frame in a buffer is written. -/
def fillBuffer (i : Nat) (bytes : List Byte) (hasFcs : Bool) (s : State) : State :=
  { s with pool := s.pool.modify i fun b => { b with bytes := bytes, hasFcs := hasFcs } }

/-- The admission threshold of a class (R89). -/
def Class.threshold : Class → Nat
  | .bulk => 48
  | .stream => 16
  | .urgent => 0

/-- A received frame of this class is kept (R89). -/
def State.admits (s : State) (c : Class) : Bool := c.threshold ≤ s.free

/-- A generator's take under its class threshold (R91): the free count less the buffer must reach the threshold;
a refused take raises POOL. -/
def generatorTake (c : Class) (s : State) : Option Nat × State :=
  if c.threshold + 1 ≤ s.free then
    (some s.pool.take.1, { s with pool := s.pool.take.2 })
  else (none, { s with pool := { s.pool with refused := raise s.pool.refused } })

/-! ## Class queues (R92, R93) -/

/-- The depth of a class queue (R92). -/
def Class.depth : Class → Nat
  | .urgent => 32
  | .stream => 64
  | .bulk => 96

def Egress.queue (e : Egress) : Class → List Entry
  | .urgent => e.urgent
  | .stream => e.stream
  | .bulk => e.bulk

def Egress.setQueue (e : Egress) (c : Class) (q : List Entry) : Egress :=
  match c with
  | .urgent => { e with urgent := q }
  | .stream => { e with stream := q }
  | .bulk => { e with bulk := q }

/-- The end of a LOCAL entry is made known to the report unit (R97); the end of a RESTART reply's entry calls for
the start of R167, which the event takes as it ends (`settle`). -/
def entryEnded (m : Mark) (s : State) : State :=
  if m = .localFrame true then { s with report := { s.report with restartDue := true } } else s

/-- The drop counter of a class queue (R93). -/
def EgressCounters.drop (c : Class) (k : EgressCounters) : EgressCounters :=
  match c with
  | .urgent => { k with urgentDrop := raise k.urgentDrop }
  | .stream => { k with streamDrop := raise k.streamDrop }
  | .bulk => { k with bulkDrop := raise k.bulkDrop }

def EgressCounters.raiseFlushed (n : Nat) (k : EgressCounters) : EgressCounters :=
  { k with flushed := raiseBy n k.flushed }

/-- A producer asks the egress scheduler of a port to enqueue an entry (R93). An entry that joins adds its own hold
on the buffer; one that is dropped or refused adds none, and a LOCAL one has ended. -/
def enqueue (p : Port) (c : Class) (buf : Nat) (m : Mark) (s : State) : State :=
  if s.isDown p then entryEnded m (s.countEg p (EgressCounters.raiseFlushed 1))
  else if c.depth ≤ ((s.eg p).queue c).length then entryEnded m (s.countEg p (EgressCounters.drop c))
  else
    let s' := s.setEg p ((s.eg p).setQueue c ((s.eg p).queue c ++ [⟨buf, m, s.clock.timerUnits⟩]))
    { s' with pool := s'.pool.addHold buf }

/-- One entry on the URGENT queue of each ring port that a generator sends on, East first; the generator's own hold
then ends, so the entries hold the buffer (R91). -/
def enqueueRing (east west : Bool) (c : Class) (buf : Nat) (m : Mark) (s : State) : State :=
  let s := if east then enqueue .east c buf m s else s
  let s := if west then enqueue .west c buf m s else s
  release buf s

end Sys2Proof.Machine
end

