-- ==== Sys2Proof/Machine/Flags.lean ====
section
/-! DEFINITION. Indications (R15), the figures that follow the source records and watch slots (R82, R126), the alarm
conditions and the ALARM and HEALTHY lines (R188, R189). -/

namespace Sys2Proof.Machine

/-! ## Indication events (R15) -/

/-- The event kinds of R15. -/
inductive IndEvent where
  | foreign
  | crossed
  | pool
  deriving DecidableEq, Repr

def Indications.has (i : Indications) : IndEvent → Bool
  | .foreign => i.foreign
  | .crossed => i.crossed
  | .pool => i.pool

def Indications.mark (i : Indications) : IndEvent → Indications
  | .foreign => { i with foreign := true }
  | .crossed => { i with crossed := true }
  | .pool => { i with pool := true }

def WindowFlags.mark (f : WindowFlags) : IndEvent → WindowFlags
  | .foreign => { f with foreign := true }
  | .crossed => { f with crossed := true }
  | .pool => { f with pool := true }

/-- An event at a port sets its indication and window flag at once, and a change of the indication notes the port
(R15, R16). At a DOWN port nothing is set. -/
def indEvent (p : Port) (k : IndEvent) (s : State) : State :=
  if s.isDown p then s
  else
    let u := s.port p
    noteIf (!u.ind.has k) (.port p) (s.setPort p { u with ind := u.ind.mark k, flags := u.flags.mark k })

/-- A frame received at a port is refused admission: REFUSED and the POOL event (R9, R89). Its buffer is returned by
the caller. -/
def refuseAdmission (p : Port) (s : State) : State :=
  indEvent p .pool (s.countPort p fun k => { k with refused := raise k.refused })

/-! ## Figures -/

/-- The number of LIVE source records (R82). -/
def State.liveRecords (s : State) : Nat := s.sources.toList.countP fun r => r.live

/-- The number of LIVE source records whose path is not BOTH (R82). -/
def State.oneLaneRecords (s : State) : Nat := s.sources.toList.countP fun r => r.live && r.path != .both

/-- The LOST-slot figure (R126). -/
def State.lostSlots (s : State) : Nat := s.slots.toList.countP fun w => w.status == .lost

/-- A slot has at least one lane DOWN. -/
def Slot.laneIsDown (w : Slot) : Bool := w.lanes.e.status == .down || w.lanes.w.status == .down

/-- The lane-DOWN-slot figure (R126). -/
def State.laneDownSlots (s : State) : Nat := s.slots.toList.countP fun w => w.laneIsDown

/-! ## Conditions and lines -/

/-- The causes of the ten alarm conditions, in the order of the table of R188 (bit 0 first). -/
def State.causes (s : State) : List Bool :=
  [s.isDown .east || s.isDown .west,
   (s.port .east).state == .degraded || (s.port .west).state == .degraded || (s.port .tap).state == .degraded,
   s.check.ring == .opened,
   (s.port .east).ind.foreign || (s.port .west).ind.foreign,
   (s.port .east).ind.crossed || (s.port .west).ind.crossed,
   s.filter.clash,
   0 < s.lostSlots,
   0 < s.laneDownSlots || 0 < s.oneLaneRecords,
   (s.port .east).ind.pool || (s.port .west).ind.pool || (s.port .tap).ind.pool,
   s.loader.nodeState == .fallback || s.loader.nodeState == .transit || s.loader.warnings.held]

/-- LOADING has ended: the report unit follows its conditions (R179, R188). -/
def State.loaded (s : State) : Bool :=
  s.loader.nodeState != .reset && s.loader.nodeState != .loading

/-- Bits from a list, bit 0 first. -/
def bitsOf : List Bool → Nat
  | [] => 0
  | b :: rest => (if b then 1 else 0) + 2 * bitsOf rest

/-- The active conditions: none before the end of LOADING, then each while its cause holds (R188, R190). -/
def State.activeConditions (s : State) : BitVec 10 :=
  if s.loaded then BitVec.ofNat 10 (bitsOf s.causes) else 0

/-- The conditions the mask leaves to drive ALARM; CONFIG cannot be masked (R188). -/
def State.unmasked (s : State) : BitVec 10 := s.activeConditions &&& ~~~ (s.cfg.alarmMask.setWidth 10)

/-- The level of ALARM (R188). -/
def State.alarmLevel (s : State) : Bool := s.unmasked != 0

/-- The level of HEALTHY (R189). -/
def State.healthyLevel (s : State) : Bool :=
  s.loader.nodeState == .running && s.check.ring == .closed && (s.port .east).state == .up &&
    (s.port .west).state == .up && !s.alarmLevel

/-- The report unit's conditions and both lines take the values of the present state (R188, R189). -/
def followConditions (s : State) : State :=
  { s with report := { s.report with conditions := s.activeConditions, alarm := s.alarmLevel, healthy := s.healthyLevel } }

end Sys2Proof.Machine
end

