-- ==== Sys2Proof/Machine/Pages.lean ====
section
/-! DEFINITION. The report pages and the frames the report unit composes, byte by byte (R184, R187, R193 to R196). -/

namespace Sys2Proof.Machine

/-- A 32-bit value as four bytes. -/
def be32 (x : BitVec 32) : List Byte := beBytes 4 x.toNat

/-- The node number of the run. -/
def State.node (s : State) : BitVec 6 := s.cfg.nodeNumber

/-! ## Page 0 -/

/-- The summary, page 0 (R184, R196): 42 bytes. -/
def summary (s : State) : List Byte :=
  [s.node.setWidth 8, s.loader.nodeState.code, s.loader.cause.code, s.loader.imageStatus.code,
    natByte s.loader.attempts, s.loader.profile.setWidth 8] ++
  beBytes 2 s.loader.overrides.toNat ++
  [s.loader.warnings.code, natByte s.loader.clampCount, s.loader.strap.setWidth 8, s.loader.storedEpoch,
    s.loader.ownEpoch.setWidth 8] ++
  be32 s.clock.nodeTime ++
  [s.check.ring.code, s.check.lanes.e.state.code, s.check.lanes.w.state.code,
    (s.port .east).state.code, (s.port .west).state.code, (s.port .tap).state.code,
    (s.port .east).ind.code, (s.port .west).ind.code, (s.port .tap).ind.code,
    flagByte s.filter.clash, natByte s.liveRecords, natByte s.oneLaneRecords, natByte s.lostSlots,
    natByte s.laneDownSlots] ++
  beBytes 2 s.free ++
  [flagByte s.roll.running, s.roll.map.outcome.code] ++
  beBytes 2 s.activeConditions.toNat ++
  beBytes 2 s.cfg.alarmMask.toNat ++
  [flagByte s.alarmLevel ||| flagByte s.healthyLevel <<< 1, natByte s.report.changes.length, flagByte s.report.more]

/-! ## Pages 1 to 4 -/

/-- The silence timer's present count, 0 to the aging time (R57, R82). -/
def silenceCount (c : Clock) : Option Timer → Nat
  | none => 0
  | some t => min t.length (c.elapsed t)

/-- The ten counters in the order of R57. -/
def SourceCounters.bytes (k : SourceCounters) : List Byte :=
  be32 k.firstE ++ be32 k.firstW ++ be32 k.duplicates ++ be32 k.repeats ++ be32 k.stale ++ be32 k.missed ++
  be32 k.westSingles ++ be32 k.eastSingles ++ be32 k.restarts ++ be32 k.resyncs

/-- A source record of pages 1 to 4: 74 bytes (R196). -/
def SourceRecord.bytes (c : Clock) (node : Nat) (r : SourceRecord) : List Byte :=
  [natByte node, flagByte r.live, natByte r.span, r.epoch.setWidth 8, natByte r.staleRun, r.path.code,
    natByte r.westMiss, natByte r.eastMiss] ++
  beBytes 2 r.top.toNat ++ beBytes 8 r.mapE.toNat ++ beBytes 8 r.mapW.toNat ++ be32 r.lastHeard ++
  beBytes 4 (silenceCount c r.silence) ++ r.counters.bytes

/-- The source record of a node number 1 to 62; every other number has none and reads EMPTY (R57). -/
def State.record (s : State) (node : Nat) : SourceRecord := (s.sources[node - 1]?).getD {}

/-- Records of nodes `start` to `start + n - 1`. -/
def sourcePage (start n : Nat) (s : State) : List Byte :=
  (List.range' start n).flatMap fun node => (s.record node).bytes s.clock node

/-! ## Pages 5 and 6 -/

/-- A lane record: presence, seq and arrival time, or seven zero bytes (R196). -/
def laneRecordBytes : Option LaneRecord → List Byte
  | none => zeros 7
  | some r => 1 :: (beBytes 2 r.seq.toNat ++ be32 r.arrival)

/-- A watch slot of pages 5 and 6: 50 bytes (R196). -/
def Slot.bytes (n : Nat) (w : Slot) : List Byte :=
  [natByte n, flagByte w.inUse, w.config.source.setWidth 8, w.config.cls.code] ++
  beBytes 2 w.config.appid.toNat ++ beBytes 2 w.config.mask.toNat ++ beBytes 2 w.config.interval.toNat ++
  [natByte w.config.allowN, natByte w.config.allowM, flagByte w.config.required, w.status.code, natByte w.miss,
    flagByte w.deadline.isSome, w.lanes.e.status.code, natByte w.lanes.e.miss, w.lanes.w.status.code,
    natByte w.lanes.w.miss] ++
  laneRecordBytes w.lanes.e.record ++ laneRecordBytes w.lanes.w.record ++
  be32 w.arrivals ++ be32 w.late ++ be32 w.lost ++ be32 w.laneDown

/-- The watch slot of an index; an index above 31 has none and reads as unused (R108). -/
def State.slot (s : State) (n : Nat) : Slot := (s.slots[n]?).getD {}

def slotPage (start : Nat) (s : State) : List Byte :=
  (List.range' start 16).flatMap fun n => (s.slot n).bytes n

/-! ## Page 7 -/

/-- The counters of R11 in table order. -/
def PortCounters.bytes (k : PortCounters) : List Byte :=
  be32 k.rxGood ++ be32 k.giant ++ be32 k.runt ++ be32 k.align ++ be32 k.fcs ++ be32 k.noBuffer ++
  be32 k.refused ++ be32 k.cut ++ be32 k.linkUp ++ be32 k.linkDown ++ be32 k.degraded

/-- The ring filter's counters of R55 except CLASH, in table order. -/
def FilterCounters.bytes (k : FilterCounters) : List Byte :=
  be32 k.foreign ++ be32 k.crossed ++ be32 k.returned ++ be32 k.expired ++ be32 k.delivered ++
  be32 k.blocked ++ be32 k.forwarded ++ be32 k.deadEnd

/-- The counters of R105 except POOL, in table order. -/
def EgressCounters.bytes (k : EgressCounters) : List Byte :=
  be32 k.txFrames ++ be32 k.urgentDrop ++ be32 k.streamDrop ++ be32 k.bulkDrop ++ be32 k.aged ++ be32 k.flushed

/-- The counters of R190 in table order. -/
def ReportCounters.bytes (k : ReportCounters) : List Byte :=
  be32 k.commands ++ be32 k.ignored ++ be32 k.cmdDrop ++ be32 k.done ++ be32 k.busy ++ be32 k.badPage ++
  be32 k.badCommand ++ be32 k.reports ++ be32 k.noticeDrop

/-- The page 7 part of a ring port (R196). -/
def ringPortBytes (p : RingPort) (s : State) : List Byte :=
  (s.port p.port).counters.bytes ++ (s.filter.counters.get p).bytes ++
  be32 (s.repeater.get p).repeated ++ be32 (s.repeater.get p).lost ++ (s.eg p.port).counters.bytes

/-- The three queue occupancies of a port: URGENT, STREAM, BULK (R196). -/
def occupancies (p : Port) (s : State) : List Byte :=
  [natByte (s.eg p).urgent.length, natByte (s.eg p).stream.length, natByte (s.eg p).bulk.length]

def countersPage (s : State) : List Byte :=
  ringPortBytes .east s ++ ringPortBytes .west s ++ (s.port .tap).counters.bytes ++ (s.eg .tap).counters.bytes ++
  be32 s.tagger.originated ++ be32 s.tagger.single ++ be32 s.tagger.isolated ++
  be32 s.filter.clashCount ++ be32 s.pool.refused ++ s.report.counters.bytes ++
  beBytes 2 s.free ++ beBytes 2 s.pool.low ++
  occupancies .east s ++ occupancies .west s ++ occupancies .tap s

/-! ## Pages 8 and 9 -/

/-- A lane of page 8 (R196). -/
def CheckLane.bytes (l : CheckLane) : List Byte :=
  [l.state.code, natByte l.miss, flagByte l.returned, flagByte l.latency.present] ++
  be32 l.latency.last ++ be32 l.latency.max ++ be32 l.sent ++ be32 l.returns ++ be32 l.lateCheck ++ be32 l.breaks

def checkPage (s : State) : List Byte :=
  beBytes 2 s.check.number.toNat ++ [s.check.ring.code] ++ s.check.lanes.e.bytes ++ s.check.lanes.w.bytes ++
  be32 s.clock.nodeTime ++ [s.cfg.timeSource.setWidth 8] ++ be32 s.time.lastCorrection ++ be32 s.time.lastLoad ++
  be32 s.time.loads ++ be32 s.time.sent

/-- A lane of the ring map on page 9: FULL flag, entry count and entries (R196). -/
def RollLane.bytes (l : RollLane) : List Byte :=
  [flagByte l.full, natByte l.entries.length] ++ l.entries.flatMap RollEntry.encode

/-- The roll unit's counters in the order of R165. -/
def RollCounters.bytes (k : RollCounters) : List Byte :=
  be32 k.rounds ++ be32 k.aborted ++ be32 k.appended ++ be32 k.loops ++ be32 k.turned ++ be32 k.secondBreak ++
  be32 k.lateRoll ++ be32 k.stray

def rollPage (s : State) : List Byte :=
  let m := s.roll.map
  [flagByte s.roll.running, s.roll.number, m.outcome.code, m.number] ++ be32 m.endTime ++
  [m.lanes.e.result.code, m.lanes.w.result.code, m.eastEnd.getD 0, m.westEnd.getD 0] ++
  m.lanes.e.bytes ++ m.lanes.w.bytes ++ s.roll.counters.bytes

/-- The data of a report page (R184); a page above 9 has none. -/
def pageData (page : Nat) (s : State) : List Byte :=
  match page with
  | 0 => summary s
  | 1 => sourcePage 1 16 s
  | 2 => sourcePage 17 16 s
  | 3 => sourcePage 33 16 s
  | 4 => sourcePage 49 14 s
  | 5 => slotPage 0 s
  | 6 => slotPage 16 s
  | 7 => countersPage s
  | 8 => checkPage s
  | 9 => rollPage s
  | _ => []

/-! ## Frames of the report unit (R195) -/

/-- The header of every frame the report unit composes (R195): 19 bytes. -/
def reportHeader (dest : Address) (code : Byte) (s : State) : List Byte :=
  beBytes 6 dest.toNat ++ beBytes 6 s.cfg.control.toNat ++ beBytes 2 s.cfg.controlType.toNat ++ [code] ++
  be32 s.clock.nodeTime

/-- The group address of reports (R195). -/
def reportGroup : Address := 0x03B700000010

/-- The page number a reply carries (R182): for REPORT the page asked for, for every other command page 0. -/
def Command.replyPage (c : Command) : Byte := if c.code = 1 then c.page else 0

/-- The page data of a reply: none for BADPAGE (R182, R195). -/
def replyData (c : Command) (r : CommandResult) (s : State) : List Byte :=
  if r = .badPage then [] else pageData c.replyPage.toNat s

/-- The content of a reply (R195). -/
def replyContent (c : Command) (r : CommandResult) (s : State) : List Byte :=
  reportHeader c.source 0x80 s ++ [c.code, r.code, c.replyPage] ++ beBytes 2 (replyData c r s).length ++
  replyData c r s

/-- The kind code and index of an item (R195). -/
def Item.codes : Item → List Byte
  | .port .east => [0, 0]
  | .port .west => [0, 1]
  | .port .tap => [0, 2]
  | .clash => [1, 0]
  | .source n => [2, natByte n]
  | .slot n => [3, natByte n]
  | .lane .e => [4, 0]
  | .lane .w => [4, 1]
  | .ring => [5, 0]
  | .roll => [6, 0]
  | .nodeState => [7, 0]

/-- The present state an item carries (R187, R195). -/
def Item.stateBytes (i : Item) (s : State) : List Byte :=
  match i with
  | .port p => [(s.port p).state.code, (s.port p).ind.code]
  | .clash => [flagByte s.filter.clash]
  | .source n =>
    let r := s.record n
    [flagByte r.live, r.epoch.setWidth 8, r.path.code] ++ be32 r.counters.restarts ++ be32 r.counters.resyncs
  | .slot n =>
    let w := s.slot n
    [w.status.code, natByte w.miss, w.lanes.e.status.code, w.lanes.w.status.code] ++
      laneRecordBytes w.lanes.e.record ++ laneRecordBytes w.lanes.w.record
  | .lane l => [(s.check.lanes.get l).state.code, natByte (s.check.lanes.get l).miss]
  | .ring => [s.check.ring.code]
  | .roll =>
    [flagByte s.roll.running, s.roll.number, s.roll.map.outcome.code, s.roll.map.eastEnd.getD 0,
      s.roll.map.westEnd.getD 0]
  | .nodeState => [s.loader.nodeState.code, s.loader.warnings.code, natByte s.loader.clampCount]

/-- An item of a node report: 20 bytes, unused ones spare (R195). -/
def Item.bytes (i : Item) (s : State) : List Byte :=
  let b := i.codes ++ i.stateBytes s
  b ++ zeros (20 - b.length)

/-- The content of a node report (R187, R195). -/
def nodeReportContent (s : State) : List Byte :=
  reportHeader reportGroup 0x81 s ++ summary s ++ [flagByte s.report.more, natByte s.report.changes.length] ++
  s.report.changes.flatMap fun i => i.bytes s

/-- The content of a ROLL BEGIN or ROLL END report (R187, R195). -/
def noticeContent (n : Notice) (s : State) : List Byte :=
  match n with
  | .begins number cause laneE laneW =>
    reportHeader reportGroup 0x82 s ++ [number, cause.code, laneE.code, laneW.code]
  | .ends number outcome eastEnd westEnd =>
    reportHeader reportGroup 0x83 s ++ [number, outcome.code, eastEnd.getD 0, westEnd.getD 0]

end Sys2Proof.Machine
end

