-- ==== Sys2Proof/Machine/Report.lean ====
section
/-! DEFINITION. How the report unit composes and sends its frames: replies (R183), node reports and roll notices
(R186, R187). -/

namespace Sys2Proof.Machine

/-- The report hold is 10 ms (R186). -/
def holdLength : Nat := 1000

/-- The report hold is started or restarted (R186). -/
def restartHold (s : State) : State :=
  { s with report := { s.report with hold := some (s.clock.timer holdLength) } }

/-- A composed frame is written into its buffer and becomes a LOCAL entry on the tap egress BULK queue; the report
unit's own hold on the buffer ends (R91, R183, R186). -/
def sendLocal (buf : Nat) (content : List Byte) (ofRestart : Bool) (s : State) : State :=
  release buf (enqueue .tap .bulk buf (.localFrame ofRestart) (fillBuffer buf (pad60 content) false s))

/-- The report unit composes the frame of `content`: it takes a BULK buffer, and then writes and sends the frame
(`done` follows), or, refused, restarts the hold (R91, R186). -/
def composeLocal (content : State → List Byte) (ofRestart : Bool) (done : State → State) (s : State) : State :=
  match generatorTake .bulk s with
  | (none, s') => restartHold s'
  | (some buf, s') => done (sendLocal buf (content s') ofRestart s')

/-! ## Replies (R183) -/

/-- The counter of a reply's result (R183, R190). -/
def ReportCounters.result (r : CommandResult) (k : ReportCounters) : ReportCounters :=
  match r with
  | .done => { k with done := raise k.done }
  | .busy => { k with busy := raise k.busy }
  | .badPage => { k with badPage := raise k.badPage }
  | .badCommand => { k with badCommand := raise k.badCommand }

/-- The head of the queue after its reply is made: it leaves, unless it is RESTART, which keeps the head until the
start (R182, R183). -/
def headReplied (s : State) : State :=
  match s.report.queue with
  | [] => s
  | c :: rest =>
    if c.code = 5 then { s with report := { s.report with queue := { c with replied := true } :: rest } }
    else { s with report := { s.report with queue := rest } }

/-- The reply of the command at the head is composed when its result is fixed and no reply was made (R183). -/
def composeReply (s : State) : State :=
  match s.report.queue with
  | [] => s
  | c :: _ =>
    match c.result with
    | none => s
    | some r =>
      if c.replied then s
      else composeLocal (replyContent c r) (c.code == 5)
        (fun t => (headReplied t).countReport (ReportCounters.result r)) s

/-! ## Report frames (R186, R187) -/

/-- A report frame has been composed: REPORTS is raised and the hold restarts (R186). -/
def reportMade (s : State) : State :=
  restartHold (s.countReport fun k => { k with reports := raise k.reports })

/-- A node report empties the list and clears MORE and the period-due flag (R187). -/
def listReported (s : State) : State :=
  { s with report := { s.report with changes := [], more := false, periodDue := false } }

/-- The oldest roll notice has been sent. -/
def noticeReported (s : State) : State :=
  { s with report := { s.report with notices := s.report.notices.tail } }

/-- One report frame is composed when something waits: the oldest roll notice, else a node report (R186). -/
def composeWaiting (s : State) : State :=
  match s.report.notices with
  | n :: _ => composeLocal (noticeContent n) false (fun t => reportMade (noticeReported t)) s
  | [] =>
    if s.report.changes ≠ [] ∨ s.report.periodDue then
      composeLocal nodeReportContent false (fun t => reportMade (listReported t)) s
    else s

/-- In RUNNING and FALLBACK, whenever the hold is run out and something waits, one report frame is composed and the
hold restarts (R186). -/
def reportService (s : State) : State :=
  if s.member && s.report.hold == none then composeWaiting s else s

/-- A roll notice joins the notice list, or is dropped when 4 are held (R186). -/
def addNotice (n : Notice) (s : State) : State :=
  if s.report.notices.length < 4 then
    { s with report := { s.report with notices := s.report.notices ++ [n] } }
  else s.countReport fun k => { k with noticeDrop := raise k.noticeDrop }

end Sys2Proof.Machine
end

