-- ==== Sys2Proof/Machine/Start.lean ====
section
/-! DEFINITION. Starts (R167), the entry to LOADING, the I2C transactions of the loader (R171, R178), and `settle`,
which ends every command. -/

namespace Sys2Proof.Machine

/-! ## I2C transactions -/

/-- The address bytes of the EEPROM at 0x57 with write and with read (section 9.3). -/
def eepromWrite : Byte := 0xAE

def eepromRead : Byte := 0xAF

/-- The operations by which a read of the EEPROM addresses it (R171, steps 1 and 2; R178, step 1). -/
def readAddressing (high low : Byte) : List BusOp :=
  [.start, .send eepromWrite, .send high, .send low, .start, .send eepromRead]

/-- The operations of the epoch write before its stop (R178, step 3). -/
def epochWriteOps (ownEpoch : BitVec 4) : List BusOp :=
  [.start, .send eepromWrite, .send 0x07, .send 0xFF, .send (ownEpoch.setWidth 8)]

/-- The operations of a completion poll (R178, step 4). -/
def pollOps : List BusOp := [.start, .send eepromWrite, .stop]

/-- The operations up to byte `n` sent, that byte included. -/
def throughByte : Nat → List BusOp → List BusOp
  | _, [] => []
  | 0, .send b :: _ => [.send b]
  | n + 1, .send b :: rest => .send b :: throughByte n rest
  | n, op :: rest => op :: throughByte n rest

/-- What a transaction that would make these operations made when it failed here, and the stop condition that ended it
(R171): a start condition met by a held SDA was not made, a byte without its acknowledge was sent. -/
def cutAt (f : BusFailure) (ops : List BusOp) : List BusOp :=
  (match f with
    | .sdaLow => []
    | .sdaLowAgain => ops.take 1 ++ (ops.drop 1).takeWhile (· != .start)
    | .noAck n => throughByte n ops) ++ [.stop]

/-- A transaction has ended with these operations (R171, R178). -/
def endTransaction (ops : List BusOp) (s : State) : State := { s with loader := { s.loader with bus := ops } }

/-- The loader begins a transaction of this phase; a stop condition that is owed comes first (R167). -/
def beginTransaction (ph : LoadPhase) (s : State) : State :=
  { s with
    loader := { s.loader with
      phase := ph
      bus := s.loader.bus ++ (if s.loader.stopFirst then [.stop] else [])
      stopFirst := false } }

/-! ## Starts -/

/-- RESET ends: the node enters LOADING, reads the NODE straps once and begins the image read (R167, R171). -/
def enterLoading (s : State) : State :=
  beginTransaction .image
    { s with loader := { s.loader with nodeState := .loading, strap := s.pins.straps, bus := [] } }

/-- A port after a start: DOWN, its qualification running from the start if its link input is high (R2, R17). -/
def startPort (link : Bool) : PortUnit := { qual := if link then some ⟨0, 2000⟩ else none }

/-- A start of this cause (R167): every block takes its value after a start. The pins, the queue of commands and,
when an I2C transaction is abandoned by a start other than power-on, the owed stop condition remain (log 22). -/
def takeStart (cause : StartCause) (s : State) : State :=
  let t : State :=
    { State.reset with
      pending := s.pending
      pins := s.pins
      ports := ⟨startPort s.pins.links.east, startPort s.pins.links.west, startPort s.pins.links.tap⟩
      loader := { cause := cause, stopFirst := cause != .power && (s.loader.phase != .idle || s.loader.stopFirst) } }
  match cause with
  | .power => if s.pins.rst then enterLoading t else t
  | .line => t
  | .command => enterLoading t

/-! ## The end of a command -/

/-- What ends every command. When the LOCAL entry of a RESTART reply has ended in it, the start of cause COMMAND is
taken (R167). Otherwise the report unit composes a report if one is called for (R186; log 12), and the conditions and
lines follow (R188, R189). -/
def settle (s : State) : State :=
  if s.report.restartDue then takeStart .command s
  else followConditions (reportService s)

/-- A command's outcome: its effect, ended by `settle`. -/
def finish (s : State) : Host.Outcome State Fault Refusal := .next (settle s)

/-! ## The commands that take a start -/

/-- POWER_ON (R167): a start of cause POWER with the pins at the levels given. -/
def execPowerOn (rst linkEast linkWest linkTap : Bool) (straps : BitVec 6) (s : State) :
    Host.Outcome State Fault Refusal :=
  .next (takeStart .power
    { s with pins := { rst := rst, links := ⟨linkEast, linkWest, linkTap⟩, straps := straps } })

/-- RST_FALL (R167): a start of cause LINE; the node stays in RESET while RST is low. -/
def execRstFall (s : State) : Host.Outcome State Fault Refusal :=
  .next (takeStart .line { s with pins := { s.pins with rst := false } })

/-- RST_RISE (R167): RESET ends. In another node state RST is already high and nothing follows. -/
def execRstRise (straps : BitVec 6) (s : State) : Host.Outcome State Fault Refusal :=
  let t : State := { s with pins := { s.pins with rst := true, straps := straps } }
  finish (if s.loader.nodeState = .reset then enterLoading t else t)

end Sys2Proof.Machine
end

