-- ==== Sys2Proof/Machine/TrailerWriter.lean ====
section
/-! DEFINITION. The trailer writer (R98 to R101): the bytes a transmission sends. -/

namespace Sys2Proof.Machine

/-- The trailer of a copy this node originates (R98): lane of the port, hops 0, spare 0. -/
def originTrailer (p : RingPort) (kind : Kind) (cls : Class) (seq : Seq) (epoch : BitVec 4) (source : BitVec 6) :
    Trailer where
  seq := seq
  source := source
  spare := 0
  epoch := epoch
  kind := kind.code
  lane := p.lane
  hops := 0
  cls := cls.code

/-- The trailer of a forwarded copy (R99): as received, with hops plus 1. -/
def Trailer.forwarded (t : Trailer) : Trailer := { t with hops := t.hops + 1 }

/-- The carried time of a TIME frame, bytes 14 to 17, takes the node time (R100, R193). -/
def writeCarriedTime (now : Stamp) (data : List Byte) : List Byte :=
  data.take 14 ++ beBytes 4 now.toNat ++ data.drop 18

/-- The bytes the trailer writer sends for an entry of this mark out of a ring port (R98 to R100). -/
def shapeRing (p : RingPort) (m : Mark) (b : Buffer) (now : Stamp) : List Byte :=
  match m with
  | .originated kind cls seq epoch source =>
    let data := if kind = .time then writeCarriedTime now b.data else b.data
    withFcs (data ++ (originTrailer p kind cls seq epoch source).encode)
  | .forwarded => withFcs (b.body ++ b.trailer.forwarded.encode)
  | .delivered => withFcs b.data
  | .localFrame _ => withFcs b.data

/-- The bytes the trailer writer sends out of the tap port (R101): a DELIVERED frame loses its trailer and is padded
to 60 bytes, a LOCAL frame goes as composed. Entries of the other marks are made on ring ports alone (R92). -/
def shapeTap (m : Mark) (b : Buffer) : List Byte :=
  match m with
  | .delivered => withFcs (pad60 b.body)
  | .originated .. => withFcs b.data
  | .forwarded => withFcs b.data
  | .localFrame _ => withFcs b.data

/-- The bytes of a transmission (R97). -/
def shape (p : Port) (m : Mark) (b : Buffer) (now : Stamp) : List Byte :=
  match p.ring? with
  | some r => shapeRing r m b now
  | none => shapeTap m b

end Sys2Proof.Machine
end

