-- ==== Sys2Proof/Machine/Egress.lean ====
section
/-! DEFINITION. The egress schedulers (chapter 5): the arbiter's choice, transmissions, flushing; the commands
TRANSMITTER_FREE and TRANSMISSION_COMPLETE. -/

namespace Sys2Proof.Machine

/-- The transmitter has no transmission in progress and the gap after its last one has passed (R95). -/
def Transmitter.isFree (now : Nat) : Transmitter → Bool
  | .free => true
  | .gap freeAt => freeAt ≤ now
  | .sending .. => false
  | .repeating .. => false

def Store.isHolding : Store → Bool
  | .holding _ => true
  | _ => false

/-- A direction holds a frame that waits to be sent or is being sent (R169). -/
def Direction.holdsFrame (d : Direction) : Bool := d.first.isHolding || d.second.isHolding

/-- The repeater holds a frame for this port (R170). -/
def State.repeaterHolds (s : State) (p : Port) : Bool :=
  match p.ring? with
  | some r => (s.repeater.get r.opposite).holdsFrame
  | none => false

/-- At least one queue of the scheduler holds an entry (R95). -/
def Egress.hasEntry (e : Egress) : Bool := !(e.urgent.isEmpty && e.stream.isEmpty && e.bulk.isEmpty)

/-- The arbiter of this port chooses now (R95): the port is not DOWN, its transmitter is free and an entry is queued; its
first choice of the run also waits until the repeater holds no frame for the port (R170; log 10). -/
def State.mayChoose (s : State) (p : Port) : Bool :=
  !s.isDown p && (s.eg p).tx.isFree s.clock.refclk && (s.eg p).hasEntry && ((s.eg p).chosen || !s.repeaterHolds p)

/-- The length of a transmission with preamble and delimiter, in REFCLK cycles: four for each byte (R97). -/
def txCycles (length : Nat) : Nat := 4 * (8 + length)

/-- The 12-byte gap in REFCLK cycles (R97, R169). -/
def gapCycles : Nat := 48

/-- A transmission of this entry starts; its hold becomes the transmission's (R95, R97). -/
def startTransmission (p : Port) (e : Entry) (s : State) : State :=
  let bytes := shape p e.mark (s.buffer e.buf) s.clock.nodeTime
  s.setEg p { s.eg p with tx := .sending e.buf e.mark bytes (s.clock.refclk + txCycles bytes.length) }

/-- A STREAM entry is older than the stream age limit, which is not 0 (R96). -/
def tooOld (limit : Nat) (now : Stamp) (e : Entry) : Bool :=
  limit != 0 && decide (limit * 10 < (now - e.joined).toNat)

/-- The choice at STREAM and BULK (R95, R96): STREAM heads that are too old are aged out, then the head of STREAM is
taken, or else the head of BULK. -/
def chooseLower (p : Port) (s : State) : State :=
  let old := tooOld s.cfg.profile.streamAge s.clock.timerUnits
  let aged := (s.eg p).stream.takeWhile old
  let kept := (s.eg p).stream.dropWhile old
  let s := aged.foldl (fun t e => release e.buf t)
    (s.setEg p { s.eg p with
      stream := kept, counters := { (s.eg p).counters with aged := raiseBy aged.length (s.eg p).counters.aged } })
  match kept, (s.eg p).bulk with
  | e :: rest, _ => startTransmission p e (s.setEg p { s.eg p with stream := rest })
  | [], e :: rest => startTransmission p e (s.setEg p { s.eg p with bulk := rest })
  | [], [] => s

/-- The arbiter's first choice of the run is made (R170). -/
def markChosen (p : Port) (s : State) : State := s.setEg p { s.eg p with chosen := true }

/-- The arbiter's choice, strict by class (R95). -/
def choose (p : Port) (s : State) : State :=
  match (s.eg p).urgent with
  | e :: rest => startTransmission p e (s.setEg p { s.eg p with urgent := rest })
  | [] => chooseLower p s

/-- TRANSMITTER_FREE (R95): the arbiter chooses when it may; otherwise no choice is made. -/
def execTransmitterFree (p : Port) (s : State) : Host.Outcome State Fault Refusal :=
  finish (if s.mayChoose p then choose p (markChosen p s) else s)

/-- A transmission completes: TX-FRAMES, the hold released, the end of a LOCAL entry made known, and the gap begins
(R97). -/
def completeTransmission (p : Port) (buf : Nat) (m : Mark) (doneAt : Nat) (s : State) : State :=
  let s := s.setEg p { s.eg p with tx := .gap (doneAt + gapCycles) }
  entryEnded m (release buf (s.countEg p fun k => { k with txFrames := raise k.txFrames }))

/-- TRANSMISSION_COMPLETE (R97): the transmission in progress completes once its last byte has been sent. -/
def execTransmissionComplete (p : Port) (s : State) : Host.Outcome State Fault Refusal :=
  finish <|
    match (s.eg p).tx with
    | .sending buf m _ doneAt => if doneAt ≤ s.clock.refclk then completeTransmission p buf m doneAt s else s
    | _ => s

/-- An entry removed by a flush: its reference is released, and the end of a LOCAL entry is made known (R102). -/
def flushEntry (e : Entry) (s : State) : State := entryEnded e.mark (release e.buf s)

/-- The transmission in progress as an entry of its own: what a flush cuts (R102). -/
def Transmitter.held : Transmitter → List Entry
  | .sending buf m _ _ => [⟨buf, m, 0⟩]
  | _ => []

/-- Every entry and transmission of an egress scheduler. -/
def Egress.held (e : Egress) : List Entry := e.tx.held ++ e.urgent ++ e.stream ++ e.bulk

/-- A port enters DOWN: its egress scheduler removes every entry and cuts a transmission in progress, raising FLUSHED
for each (R102). From then on its transmitter is free (R104); that the arbiter has made its first choice of the run
stays so. -/
def flush (p : Port) (s : State) : State :=
  let e := s.eg p
  e.held.foldl (fun t x => flushEntry x t)
    (s.setEg p { urgent := [], stream := [], bulk := [], tx := .free, chosen := e.chosen,
                 counters := e.counters.raiseFlushed e.held.length })

end Sys2Proof.Machine
end

