-- ==== Sys2Proof/Machine/Repeater.lean ====
section
/-! DEFINITION. The repeater path (R169, R170); the commands REPEATER_TX_COMPLETE and REPEATER_TRANSMITTER_FREE. A
direction is named by the ring port its frames arrive on; it leads out of the opposite port. -/

namespace Sys2Proof.Machine

def Direction.store (d : Direction) (isFirst : Bool) : Store := if isFirst then d.first else d.second

def Direction.setStore (d : Direction) (isFirst : Bool) (x : Store) : Direction :=
  if isFirst then { d with first := x } else { d with second := x }

/-- The direction of frames arriving on this ring port. -/
def State.dir (s : State) (p : RingPort) : Direction := s.repeater.get p

def State.setDir (s : State) (p : RingPort) (d : Direction) : State :=
  { s with repeater := s.repeater.set p d }

/-- REPEAT-LOST of an arrival port rises by `n` (R169, R170). -/
def repeatLost (p : RingPort) (n : Nat) (s : State) : State :=
  s.setDir p { s.dir p with lost := raiseBy n (s.dir p).lost }

/-- A store is freed. -/
def freeStore (p : RingPort) (isFirst : Bool) (s : State) : State :=
  s.setDir p ((s.dir p).setStore isFirst .free)

/-- The bytes a store holds. -/
def Store.bytes : Store → List Byte
  | .holding b => b
  | _ => []

/-- The transmitter of this ring port may start sending a repeater store (R169). -/
def State.mayRepeat (s : State) (out : RingPort) : Bool :=
  !s.isDown out.port && (s.eg out.port).tx.isFree s.clock.refclk

/-- The next frame of the send order leading out of this ring port starts, if the transmitter is free and one waits;
it is sent as it was received (R169). -/
def startRepeat (out : RingPort) (s : State) : State :=
  match (s.dir out.opposite).order with
  | [] => s
  | isFirst :: rest =>
    if s.mayRepeat out then
      let d := s.dir out.opposite
      let bytes := (d.store isFirst).bytes
      (s.setDir out.opposite { d with order := rest }).setEg out.port
        { s.eg out.port with tx := .repeating isFirst bytes (s.clock.refclk + txCycles bytes.length) }
    else s

/-- A frame starts on the repeater path (R169): it goes into a free store of the direction that leads away from its
port, or is taken in and checked but not kept. Of two free stores it takes the first, which is the model's choice
(log 35). -/
def repeatStart (p : RingPort) (s : State) : State :=
  let d := s.dir p
  let u := s.port p.port
  if d.first = .free then
    (s.setDir p { d with first := .receiving }).setPort p.port { u with rx := .repeating true }
  else if d.second = .free then
    (s.setDir p { d with second := .receiving }).setPort p.port { u with rx := .repeating false }
  else s.setPort p.port { u with rx := .unkept false }

/-- A store holds an intact frame, which joins its direction's send order (R169). -/
def joinOrder (p : RingPort) (isFirst : Bool) (bytes : List Byte) (s : State) : State :=
  let d := (s.dir p).setStore isFirst (.holding bytes)
  s.setDir p { d with order := d.order ++ [isFirst] }

/-- An intact frame held in a store joins its direction's send order, or is lost when the opposite port is DOWN at the
frame end (R169). A free opposite transmitter starts sending at once (log 11). -/
def repeatEnd (p : RingPort) (isFirst : Bool) (bytes : List Byte) (s : State) : State :=
  if s.isDown p.opposite.port then repeatLost p 1 (freeStore p isFirst s)
  else startRepeat p.opposite (joinOrder p isFirst bytes s)

/-- A store that holds a frame is freed; one that is receiving is left. -/
def Store.dropHeld (x : Store) : Store := if x.isHolding then .free else x

/-- How many frames a direction holds. -/
def Direction.heldCount (d : Direction) : Nat :=
  (if d.first.isHolding then 1 else 0) + (if d.second.isHolding then 1 else 0)

/-- A ring port enters DOWN: every frame that waits in the direction leading out of it, or is being sent out of it, is
dropped, and REPEAT-LOST of the arrival port rises for each (R170). -/
def repeatDrop (out : RingPort) (s : State) : State :=
  let d := s.dir out.opposite
  s.setDir out.opposite
    { d with first := d.first.dropHeld, second := d.second.dropHeld, order := [],
             lost := raiseBy d.heldCount d.lost }

/-- REPEATER_TX_COMPLETE (R169): the store is freed, REPEATED of the arrival port rises, and the gap begins. -/
def execRepeaterTxComplete (out : RingPort) (s : State) : Host.Outcome State Fault Refusal :=
  finish <|
    match (s.eg out.port).tx with
    | .repeating isFirst _ doneAt =>
      if doneAt ≤ s.clock.refclk then
        let t := freeStore out.opposite isFirst s
        let t := t.setDir out.opposite
          { t.dir out.opposite with repeated := raise (t.dir out.opposite).repeated }
        t.setEg out.port { t.eg out.port with tx := .gap (doneAt + gapCycles) }
      else s
    | _ => s

/-- REPEATER_TRANSMITTER_FREE (R169): the next frame of the send order starts. -/
def execRepeaterTransmitterFree (out : RingPort) (s : State) : Host.Outcome State Fault Refusal :=
  finish (startRepeat out s)

end Sys2Proof.Machine
end

