-- ==== Sys2Proof/Machine/SourceTable.lean ====
section
/-! DEFINITION. The source table (chapter 4): the verdict computation, departure accounting and aging; the command
SILENCE_EXPIRY. -/

namespace Sys2Proof.Machine

/-- The map of a lane. -/
def SourceRecord.map (r : SourceRecord) : Lane → BitVec 64
  | .e => r.mapE
  | .w => r.mapW

/-- The bit of a lane at a position. -/
def SourceRecord.bit (r : SourceRecord) (x : Lane) (k : Nat) : Bool := (r.map x).getLsbD k

/-- The map with the bit of position `k` alone. -/
def oneBit (k : Nat) : BitVec 64 := 1#64 <<< k

/-- The bit of a lane at a position is set. -/
def SourceRecord.setBit (r : SourceRecord) (x : Lane) (k : Nat) : SourceRecord :=
  match x with
  | .e => { r with mapE := r.mapE ||| oneBit k }
  | .w => { r with mapW := r.mapW ||| oneBit k }

/-- The record changed around a copy: window of one position holding the copy's mark, everything else of the run
cleared, counters kept (R59, R61, R67). -/
def SourceRecord.around (r : SourceRecord) (s : Seq) (e : BitVec 4) (x : Lane) : SourceRecord :=
  { r with
    live := true
    top := s
    span := 1
    mapE := if x = .e then oneBit 0 else 0
    mapW := if x = .w then oneBit 0 else 0
    epoch := e
    staleRun := 0
    westMiss := 0
    eastMiss := 0
    path := .both }

/-! ## Counters (R69) -/

/-- The verdict counter of a FIRST on a lane. -/
def SourceCounters.first (x : Lane) (k : SourceCounters) : SourceCounters :=
  match x with
  | .e => { k with firstE := raise k.firstE }
  | .w => { k with firstW := raise k.firstW }

/-- The verdict counter raised for a verdict on a lane (R69). -/
def SourceCounters.verdict (v : Verdict) (x : Lane) (k : SourceCounters) : SourceCounters :=
  match v with
  | .first => k.first x
  | .duplicate => { k with duplicates := raise k.duplicates }
  | .repeated => { k with repeats := raise k.repeats }
  | .stale => { k with stale := raise k.stale }

/-! ## Departure accounting (R70 to R73) -/

/-- A record with the mark that a path change was noted in this request. -/
structure Accounted where
  src : SourceRecord
  noted : Bool
  deriving DecidableEq, Repr

/-- The path becomes `p`; a change is noted (R71, R72, R81). -/
def Accounted.toPath (a : Accounted) (p : SourcePath) : Accounted :=
  if a.src.path = p then a else ⟨{ a.src with path := p }, true⟩

/-- A paired departure (R71). -/
def Accounted.paired (a : Accounted) : Accounted :=
  Accounted.toPath ⟨{ a.src with westMiss := 0, eastMiss := 0 }, a.noted⟩ .both

/-- A departure that held the lane-E copy alone (R72). -/
def Accounted.eastSingle (limit : Nat) (a : Accounted) : Accounted :=
  let streak := min 255 (a.src.westMiss + 1)
  let b : Accounted := ⟨{ a.src with
    westMiss := streak
    eastMiss := 0
    counters := { a.src.counters with westSingles := raise a.src.counters.westSingles } }, a.noted⟩
  if a.src.westMiss < 255 ∧ streak = limit then b.toPath .eastOnly else b

/-- A departure that held the lane-W copy alone (R72, mirror). -/
def Accounted.westSingle (limit : Nat) (a : Accounted) : Accounted :=
  let streak := min 255 (a.src.eastMiss + 1)
  let b : Accounted := ⟨{ a.src with
    eastMiss := streak
    westMiss := 0
    counters := { a.src.counters with eastSingles := raise a.src.counters.eastSingles } }, a.noted⟩
  if a.src.eastMiss < 255 ∧ streak = limit then b.toPath .westOnly else b

/-- `n` numbers are counted missed (R73). -/
def Accounted.missed (n : Nat) (a : Accounted) : Accounted :=
  ⟨{ a.src with counters := { a.src.counters with missed := raiseBy n a.src.counters.missed } }, a.noted⟩

/-- One leaving position is accounted by its marks (R71 to R73). -/
def Accounted.leave (limit : Nat) (k : Nat) (a : Accounted) : Accounted :=
  match a.src.bit .e k, a.src.bit .w k with
  | true, true => a.paired
  | true, false => a.eastSingle limit
  | false, true => a.westSingle limit
  | false, false => a.missed 1

/-- The leaving positions of an advance by `d`: from max(0, 64 − d) up to span − 1 (R70). -/
def leavingPositions (span d : Nat) : List Nat := List.range' (64 - d) (span - (64 - d))

/-- Departure accounting of an advance by `d` (R70), with the gap of R73. -/
def accountDepartures (limit d : Nat) (r : SourceRecord) : Accounted :=
  ((leavingPositions r.span d).foldl (fun a k => Accounted.leave limit k a) (Accounted.mk r false)).missed (d - 64)

/-- A copy AHEAD by `d` (R64). -/
def SourceRecord.advance (limit d : Nat) (s : Seq) (x : Lane) (r : SourceRecord) : Accounted :=
  let a := accountDepartures limit d r
  ⟨({ a.src with mapE := a.src.mapE <<< d, mapW := a.src.mapW <<< d, top := s,
                 span := min 64 (a.src.span + d) }).setBit x 0, a.noted⟩

/-! ## The verdict computation (R59 to R67) -/

/-- A judged copy: verdict, record, and whether the source item is noted (R81). -/
structure Judged where
  verdict : Verdict
  src : SourceRecord
  noted : Bool
  deriving DecidableEq, Repr

/-- A copy at position `k` of the window, 0 to 63 (R63, R65). -/
def SourceRecord.atPosition (x : Lane) (k : Nat) (r : SourceRecord) : Judged :=
  if r.bit x k then ⟨.repeated, r, false⟩
  else if r.bit x.other k then ⟨.duplicate, r.setBit x k, false⟩
  else ⟨.first, { r.setBit x k with span := max r.span (k + 1) }, false⟩

/-- A STALE copy, and the resync at the eighth in a row (R66, R67). -/
def SourceRecord.staleCopy (s : Seq) (e : BitVec 4) (x : Lane) (r : SourceRecord) : Judged :=
  if r.staleRun + 1 < 8 then ⟨.stale, { r with staleRun := r.staleRun + 1 }, false⟩
  else ⟨.first, { r.around s e x with counters := { r.counters with resyncs := raise r.counters.resyncs } }, true⟩

/-- A verdict other than STALE sets stale run to 0 (R67). -/
def Judged.clearRun (j : Judged) : Judged := { j with src := { j.src with staleRun := 0 } }

/-- The placement of a copy of the record's own epoch (R62 to R66). -/
def SourceRecord.place (limit : Nat) (s : Seq) (e : BitVec 4) (x : Lane) (r : SourceRecord) : Judged :=
  let d := (s - r.top).toNat
  if d = 0 then (r.atPosition x 0).clearRun
  else if d ≤ 32767 then
    let a := r.advance limit d s x
    Judged.clearRun ⟨.first, a.src, a.noted⟩
  else if 65536 - d ≤ 63 then (r.atPosition x (65536 - d)).clearRun
  else r.staleCopy s e x

/-- The verdict on a copy and the window's changes, before the verdict counter and the silence timer (R59 to R67). -/
def SourceRecord.weigh (limit : Nat) (s : Seq) (e : BitVec 4) (x : Lane) (r : SourceRecord) : Judged :=
  if !r.live then ⟨.first, { r.around s e x with counters := {} }, true⟩
  else
    let g := (e - r.epoch).toNat
    if g = 0 then r.place limit s e x
    else if g ≤ 8 then
      ⟨.first, { r.around s e x with counters := { r.counters with restarts := raise r.counters.restarts } }, true⟩
    else r.staleCopy s e x

/-- A request whole: the verdict, its counter, last heard and the silence timer (R58, R68, R69). -/
def SourceRecord.judge (limit : Nat) (s : Seq) (e : BitVec 4) (x : Lane) (arrival : Stamp) (silence : Timer)
    (r : SourceRecord) : Judged :=
  let j := r.weigh limit s e x
  { j with src := { j.src with
    counters := j.src.counters.verdict j.verdict x, lastHeard := arrival, silence := some silence } }

/-! ## The table -/

/-- The record of a node number is replaced. -/
def State.setRecord (s : State) (node : Nat) (r : SourceRecord) : State :=
  { s with sources := s.sources.setIfInBounds (node - 1) r }

/-- The aging time in timer units (R76, R83). -/
def State.agingTime (s : State) : Nat := s.cfg.profile.aging * 1000

/-- The ring filter's request for a verdict (R58): the record of the trailer's source takes it whole. -/
def requestVerdict (t : Trailer) (arrival : Stamp) (s : State) : Verdict × State :=
  let node := t.source.toNat
  let j := (s.record node).judge s.cfg.profile.streakLimit t.seq t.epoch t.lane arrival (s.clock.timer s.agingTime)
  (j.verdict, noteIf j.noted (.source node) (s.setRecord node j.src))

/-- SILENCE_EXPIRY (R76): the record becomes EMPTY and the source item is noted. -/
def execSilenceExpiry (node : Nat) (s : State) : Host.Outcome State Fault Refusal :=
  finish <|
    let r := s.record node
    if 1 ≤ node ∧ node ≤ 62 ∧ r.live = true ∧ s.clock.due r.silence = true then
      note (.source node) (s.setRecord node {})
    else s

end Sys2Proof.Machine
end

