-- ==== Sys2Proof/Machine/Roll.lean ====
section
/-! DEFINITION. The roll unit (chapter 8): rounds, peers' rolls, own rolls; the commands PEER_ROLL, OWN_ROLL and
ROLL_TIMEOUT_EXPIRY. -/

namespace Sys2Proof.Machine

/-! ## Ring internal frames (R193) -/

/-- The header of a CHECK, ROLL or TIME frame (R193): 14 bytes. -/
def internalHeader (k : Kind) (s : State) : List Byte :=
  beBytes 6 (0x03B700000000 + k.code.toNat) ++ beBytes 6 s.cfg.control.toNat ++ [0xB7, 0xC1]

/-- The mark of an internal frame of this node: class URGENT, own epoch and node number (R131, R141, R152). -/
def internalMark (k : Kind) (seq : Seq) (s : State) : Mark :=
  .originated k .urgent seq s.loader.ownEpoch s.node

/-! ## Ends of rounds (R159 to R161) -/

/-- The outcome of two lane results, first match in the order of R159. -/
def roundOutcome (e w : RollLane) : RollOutcome :=
  if e.result = .timeout ∨ w.result = .timeout then .incomplete
  else if e.result = .returned ∧ w.result = .returned then
    if (e.entries.map RollEntry.number).reverse = w.entries.map RollEntry.number then .closed else .mismatch
  else if e.result ≠ .returned ∧ w.result ≠ .returned then .opened
  else .changed

/-- The end a lane's list gives for outcome OPEN: the last entry's node, or this node (R160). -/
def listEnd (l : RollLane) (node : Byte) : Byte :=
  match l.entries.getLast? with
  | some r => r.number
  | none => node

/-- The record a round leaves in the ring map (R160). -/
def roundRecord (s : State) : RingMap :=
  let e := s.roll.lanes.e
  let w := s.roll.lanes.w
  let outcome := roundOutcome e w
  { outcome := outcome
    number := s.roll.number
    endTime := s.clock.nodeTime
    lanes := s.roll.lanes
    eastEnd := if outcome = .opened then some (listEnd e (s.node.setWidth 8)) else none
    westEnd := if outcome = .opened then some (listEnd w (s.node.setWidth 8)) else none }

/-- Both lanes of the present round have a result (R159). -/
def RollUnit.complete (r : RollUnit) : Bool :=
  r.lanes.e.result != .unresolved && r.lanes.w.result != .unresolved

/-- A round ends (R161, steps 1 to 5). The lanes go back to OPEN with empty lists (log 20). -/
def closeRound (s : State) : State :=
  let m := roundRecord s
  note .roll (addNotice (.ends m.number m.outcome m.eastEnd m.westEnd)
    { s with roll := { s.roll with running := false, timeout := none, lanes := ⟨{}, {}⟩, map := m } })

/-! ## Starts of rounds (R151, R152) -/

/-- A lane of a round as it starts: LOCAL when its own port is DOWN (R151, step 4). -/
def startLane (ownPortDown : Bool) : RollLane := { result := if ownPortDown then .ownPortDown else .unresolved }

/-- The content of this node's roll (R152, R193). -/
def rollContent (s : State) : List Byte :=
  internalHeader .roll s ++ [s.node.setWidth 8, s.roll.number, 0, 0]

/-- The roll is composed and queued on the port of each OPEN lane; the answer says whether the pool refused it
(R152). -/
def sendRoll (s : State) : Bool × State :=
  match generatorTake .urgent s with
  | (none, s') => (true, s')
  | (some buf, s') =>
    let t := fillBuffer buf (pad60 (rollContent s')) false s'
    (false, enqueueRing (!s'.isDown .east) (!s'.isDown .west) .urgent buf
      (internalMark .roll (s'.roll.number.setWidth 16) s') t)

/-- What the ROLL BEGIN notice says of a lane (R151). -/
def laneSend (ownPortDown refused : Bool) : LaneSend :=
  if ownPortDown then .ownPortDown else if refused then .refused else .sent

/-- The round state becomes RUNNING with the next roll number, its lanes OPEN or LOCAL and its timeout running (R151,
steps 1 to 4 and 6). -/
def openRound (cause : RollCause) (s : State) : State :=
  { s with roll := { s.roll with
    running := true
    cause := cause
    number := s.roll.number + 1
    lanes := ⟨startLane (s.isDown .east), startLane (s.isDown .west)⟩
    timeout := some (s.clock.timer (s.cfg.profile.rollTimeout * 1000))
    counters := { s.roll.counters with rounds := raise s.roll.counters.rounds } } }

/-- A round starts (R151, steps 1 to 7). -/
def beginRound (cause : RollCause) (s : State) : State :=
  let eDown := s.isDown .east
  let wDown := s.isDown .west
  let t := openRound cause s
  let r := if eDown && wDown then (false, t) else sendRoll t
  note .roll (addNotice (.begins t.roll.number cause (laneSend eDown r.1) (laneSend wDown r.1)) r.2)

/-- A round whose again flag is clear: it ends at once when both lanes are LOCAL (R151). -/
def startLastRound (cause : RollCause) (s : State) : State :=
  let s := beginRound cause s
  if s.roll.complete then closeRound s else s

/-- A round ends, and the again flag, cleared by the reading, starts the next one (R159, R161). -/
def endRound (s : State) : State :=
  let t := closeRound { s with roll := { s.roll with again := false } }
  if s.roll.again then startLastRound .again t else t

/-- A round starts from IDLE (R151); with both lanes LOCAL it ends at once. -/
def startRound (cause : RollCause) (s : State) : State :=
  let s := beginRound cause s
  if s.roll.complete then endRound s else s

/-- An auto trigger (R150). -/
def autoTrigger (s : State) : State :=
  if s.roll.running then { s with roll := { s.roll with again := true } } else startRound .auto s

/-! ## Peers' rolls (R153 to R155) -/

/-- This node's entry (R153). -/
def ownEntry (s : State) : RollEntry where
  number := s.node.setWidth 8
  eastUp := !s.isDown .east
  westUp := !s.isDown .west
  eastDegraded := (s.port .east).state == .degraded
  westDegraded := (s.port .west).state == .degraded
  ring := s.check.ring
  lostSlots := natByte s.lostSlots

/-- A roll discarded: its buffer is released. -/
def discardRoll (buf : Nat) (f : RollCounters → RollCounters) (s : State) : State := release buf (s.countRoll f)

/-- A frame body with its roll flags byte replaced. -/
def setRollFlags (flags : Byte) (body : List Byte) : List Byte := body.set 16 flags

/-- A frame body with an entry appended to its list: the count rises by 1, and the entry stands after the list, over
padding where there is some (R154, R193; log 25). -/
def appendEntry (r : RollEntry) (body : List Byte) : List Byte :=
  let n := rollCount body
  (body.take (18 + 4 * n)).set 17 (natByte (n + 1)) ++ r.encode ++ body.drop (18 + 4 * (n + 1))

/-- The new frame of a peer roll leaves the node (R154): onward, or turned, or nowhere. `body` is its content up to the
trailer, padded to the length of a generator's frame (R91, R191; log 25), and the trailer goes exactly as received. -/
def passRoll (p : RingPort) (buf : Nat) (body trailer : List Byte) (s : State) : State :=
  match generatorTake .urgent s with
  | (none, s') => release buf s'
  | (some new, s') =>
    let out := p.opposite
    let t :=
      if !s'.isDown out.port then
        release new (enqueue out.port .urgent new .forwarded (fillBuffer new (pad60 body ++ trailer) false s'))
      else if !s'.isDown p.port then
        let turned := setRollFlags (rollFlags body ||| 0x80) body
        release new (enqueue p.port .urgent new .forwarded
          ((fillBuffer new (pad60 turned ++ trailer) false s').countRoll fun k => { k with turned := raise k.turned }))
      else release new (s'.countRoll fun k => { k with secondBreak := raise k.secondBreak })
    release buf t

/-- A peer roll on its outward pass: examined, appended to or marked FULL, and passed (R153, R154). -/
def outwardRoll (p : RingPort) (buf : Nat) (s : State) : State :=
  let b := s.buffer buf
  let body := b.body
  if !rollListFits body || (rollEntries body).any (fun r => r.number == s.node.setWidth 8) then
    discardRoll buf (fun k => { k with loops := raise k.loops }) s
  else if rollCount body = 62 then
    passRoll p buf (setRollFlags (rollFlags body ||| 0x40) body) b.trailerBytes s
  else
    passRoll p buf (appendEntry (ownEntry s) body) b.trailerBytes
      (s.countRoll fun k => { k with appended := raise k.appended })

/-- A turned peer roll on its way home: passed on unchanged, or discarded at a second dead end (R155). -/
def homewardRoll (p : RingPort) (buf : Nat) (s : State) : State :=
  if s.isDown p.opposite.port then discardRoll buf (fun k => { k with secondBreak := raise k.secondBreak }) s
  else release buf (enqueue p.opposite.port .urgent buf .forwarded s)

/-- The first roll handed over that `c` picks, and the others in their order. -/
def takeFirst {α : Type} (c : α → Bool) : List α → Option (α × List α)
  | [] => none
  | a :: rest => if c a then some (a, rest) else (takeFirst c rest).map fun r => (r.1, a :: r.2)

/-- PEER_ROLL (R153 to R155): the roll unit takes the oldest peer roll of this arrival port. -/
def execPeerRoll (p : RingPort) (s : State) : Host.Outcome State Fault Refusal :=
  finish <|
    match takeFirst (fun r : RollIn => r.port == p && !r.own) s.rollIn with
    | none => s
    | some (r, rest) =>
      let s : State := { s with rollIn := rest }
      if rollTurned (s.buffer r.buf).body then homewardRoll p r.buf s else outwardRoll p r.buf s

/-! ## Own rolls (R156 to R158) -/

/-- An own roll does not belong to the present round (R156). -/
def isLateRoll (t : Trailer) (s : State) : Bool :=
  !s.roll.running || t.epoch != s.loader.ownEpoch || t.seq.setWidth 8 != s.roll.number

/-- The result a roll of the present round gives its lane, if any (R157): RETURNED at the lane's far port, TURNED at
its own port, and nothing for a lane that is not OPEN. -/
def rollResult (lane : Lane) (turned : Bool) (p : RingPort) (before : LaneResult) : Option LaneResult :=
  if before ≠ .unresolved then none
  else if turned then (if p = lane.ownPort then some .turned else none)
  else (if p = lane.ownPort.opposite then some .returned else none)

/-- A roll of the present round gives its lane a result, list and FULL flag, and the round ends when the other lane
has its result; a roll that changes nothing is stray (R157). -/
def takeRoll (p : RingPort) (buf : Nat) (t : Trailer) (body : List Byte) (s : State) : State :=
  match rollResult t.lane (rollTurned body) p (s.roll.lanes.get t.lane).result with
  | none => discardRoll buf (fun k => { k with stray := raise k.stray }) s
  | some r =>
    let s : State := { s with roll := { s.roll with
      lanes := s.roll.lanes.set t.lane { result := r, entries := rollEntries body, full := rollFull body } } }
    let s := release buf s
    if s.roll.complete then endRound s else s

/-- OWN_ROLL (R156, R157): the roll unit takes the oldest own roll of this arrival port. -/
def execOwnRoll (p : RingPort) (s : State) : Host.Outcome State Fault Refusal :=
  finish <|
    match takeFirst (fun r : RollIn => r.port == p && r.own) s.rollIn with
    | none => s
    | some (r, rest) =>
      let s : State := { s with rollIn := rest }
      let b := s.buffer r.buf
      if isLateRoll b.trailer s then discardRoll r.buf (fun k => { k with lateRoll := raise k.lateRoll }) s
      else if !rollListFits b.body then discardRoll r.buf (fun k => { k with stray := raise k.stray }) s
      else takeRoll p r.buf b.trailer b.body s

/-- A lane without a result receives TIMEOUT with an empty list (R158). -/
def RollLane.timedOut (l : RollLane) : RollLane :=
  if l.result = .unresolved then { result := .timeout } else l

/-- ROLL_TIMEOUT_EXPIRY (R158). -/
def execRollTimeoutExpiry (s : State) : Host.Outcome State Fault Refusal :=
  finish <|
    if s.roll.running && s.clock.due s.roll.timeout then
      endRound { s with roll := { s.roll with
        lanes := ⟨s.roll.lanes.e.timedOut, s.roll.lanes.w.timedOut⟩ } }
    else s

/-! ## HALT-ROLL (R162) -/

/-- A running round ends ABORTED without replacing the ring map (R162); an IDLE unit is unchanged. -/
def haltRound (s : State) : State :=
  if s.roll.running then
    note .roll (addNotice (.ends s.roll.number .aborted none none)
      { s with roll := { s.roll with
        running := false, timeout := none, lanes := ⟨{}, {}⟩, again := false
        counters := { s.roll.counters with aborted := raise s.roll.counters.aborted } } })
  else s

end Sys2Proof.Machine
end

