-- ==== Sys2Proof/Machine/RingCheck.lean ====
section
/-! DEFINITION. The ring check unit (sections 7.1 to 7.4); the command CHECK_PERIOD_EXPIRY. -/

namespace Sys2Proof.Machine

/-! ## Lanes and the ring state -/

/-- The ring state the two lane states give (R137). -/
def ringOf (e w : LaneState) : RingState :=
  if e = .closed ∧ w = .closed then .closed
  else if e = .broken ∨ w = .broken then .opened
  else .starting

/-- The lanes of the ring check unit take new values, and the ring state follows them (R137). -/
def State.withLanes (e w : CheckLane) (s : State) : State :=
  { s with check := { s.check with lanes := ⟨e, w⟩, ring := ringOf e.state w.state } }

/-- A change of the ring state notes the ring and, with auto-roll set, gives the roll unit an auto trigger (R137). A
report that the notes of the event call for is composed before the trigger acts (read by inference, log 12), and the
round the trigger starts composes its roll before a CHECK frame of the same event (the model's choice, log 36). -/
def ringChanged (s : State) : State :=
  let t := note .ring s
  if t.cfg.autoRoll then autoTrigger (reportService t) else t

/-- What the ring check unit was before this event is compared with what it is: each lane whose state changed is noted,
E first, and then a change of the ring state is (R137); the order of these items is the model's choice (log 40). -/
def tellLanes (old : RingCheck) (s : State) : State :=
  let t := noteIf (s.check.lanes.w.state != old.lanes.w.state) (.lane .w)
    (noteIf (s.check.lanes.e.state != old.lanes.e.state) (.lane .e) s)
  if s.check.ring = old.ring then t else ringChanged t

/-- A lane broken by a ring port's fall (R136). -/
def CheckLane.breakBy (limit : Nat) (l : CheckLane) : CheckLane :=
  { l with
    state := .broken
    miss := limit
    returned := false
    breaks := if l.state = .broken then l.breaks else raise l.breaks }

/-- A ring port enters DOWN from UP or DEGRADED: both lanes break (R136). The unit works only while the node is RUNNING
or FALLBACK (R129). -/
def breakLanes (s : State) : State :=
  if s.member then
    let c := s.cfg.profile.missLimit
    s.withLanes (s.check.lanes.e.breakBy c) (s.check.lanes.w.breakBy c)
  else s

/-- A lane judged at a period end (R135), with its returned flag cleared. -/
def CheckLane.judge (limit : Nat) (l : CheckLane) : CheckLane :=
  if l.returned then { l with returned := false }
  else
    let miss := min limit (l.miss + 1)
    if miss = limit ∧ l.state ≠ .broken then { l with miss := miss, state := .broken, breaks := raise l.breaks }
    else { l with miss := miss }

/-- The ending period is judged on both lanes (R135). -/
def judgePeriod (s : State) : State :=
  let c := s.cfg.profile.missLimit
  tellLanes s.check (s.withLanes (s.check.lanes.e.judge c) (s.check.lanes.w.judge c))

/-! ## CHECK frames (R130, R131) -/

/-- The content of a CHECK frame (R131, R193): origin tag, send time and check number. -/
def checkContent (s : State) : List Byte :=
  internalHeader .check s ++ be32 s.cfg.originTag ++ be32 s.clock.nodeTime ++ beBytes 2 s.check.number.toNat

/-- CHECK-SENT of a lane that received an entry (R131). -/
def CheckLane.countSent (made : Bool) (l : CheckLane) : CheckLane :=
  if made then { l with sent := raise l.sent } else l

/-- A CHECK frame is composed for the present check number (R131). -/
def sendCheck (s : State) : State :=
  let east := !s.isDown .east
  let west := !s.isDown .west
  if east || west then
    match generatorTake .urgent s with
    | (none, s') => s'
    | (some buf, s') =>
      let t := fillBuffer buf (pad60 (checkContent s')) false s'
      let t := enqueueRing east west .urgent buf (internalMark .check s'.check.number s') t
      { t with check := { t.check with
        lanes := ⟨t.check.lanes.e.countSent east, t.check.lanes.w.countSent west⟩ } }
  else s

/-- The check period P in timer units (R130). -/
def State.checkPeriod (s : State) : Nat := s.cfg.profile.checkPeriod * 100

/-- A check period begins: the check number advances, the timer is set and a CHECK frame is composed (R130). -/
def beginPeriod (t : Option Timer) (s : State) : State :=
  sendCheck { s with check := { s.check with number := s.check.number + 1, period := t } }

/-- CHECK_PERIOD_EXPIRY (R130): the ending period is judged, then the new one begins. A change of the ring state that the
judgement makes starts its round of roll call, with its buffer and its roll, before the new period's CHECK frame; R130
and R150 leave that order open, and it is the model's choice (log 36). -/
def execCheckPeriodExpiry (s : State) : Host.Outcome State Fault Refusal :=
  finish <|
    if s.clock.due s.check.period then
      beginPeriod (rearmed s.check.period s.checkPeriod) (judgePeriod s)
    else s

/-! ## Returns (R132 to R134) -/

/-- A return of check number `c` is current (R132). -/
def isCurrentReturn (t : Trailer) (s : State) : Bool :=
  t.epoch == s.loader.ownEpoch && decide ((s.check.number - t.seq).toNat + 1 ≤ s.cfg.profile.missLimit)

/-- The latency record after a return (R134). -/
def Latency.update (x : Stamp) (l : Latency) : Latency where
  present := true
  last := x
  max := if l.present && decide (x ≤ l.max) then l.max else x

/-- A lane after a counted return (R133). -/
def CheckLane.countReturn (latency : Stamp) (portDown : Bool) (l : CheckLane) : CheckLane :=
  { l with
    returns := raise l.returns
    returned := true
    latency := l.latency.update latency
    state := if portDown then l.state else .closed
    miss := if portDown then l.miss else 0 }

/-- A late check (R132). -/
def CheckLane.countLate (l : CheckLane) : CheckLane := { l with lateCheck := raise l.lateCheck }

/-- The lanes with one of them changed. -/
def changeLane (x : Lane) (f : CheckLane → CheckLane) (s : State) : State :=
  let l := s.check.lanes.set x (f (s.check.lanes.get x))
  tellLanes s.check (s.withLanes l.e l.w)

/-- An own CHECK frame handed over by the ring filter, with its trailer, send time and arrival time (R132 to R134). -/
def takeReturn (t : Trailer) (sendTime arrival : Stamp) (s : State) : State :=
  if isCurrentReturn t s then changeLane t.lane (CheckLane.countReturn (arrival - sendTime) s.ringPortDown) s
  else changeLane t.lane CheckLane.countLate s

end Sys2Proof.Machine
end

