-- ==== Sys2Proof/Machine/TimeBase.lean ====
section
/-! DEFINITION. The time base (sections 7.6 and 7.7); the command TIME_PERIOD_EXPIRY. -/

namespace Sys2Proof.Machine

/-- The node is the time source (R141). -/
def State.isTimeSource (s : State) : Bool := s.cfg.timeSource != 0 && s.cfg.timeSource == s.node

/-- The time period in timer units (R141). -/
def State.timePeriod (s : State) : Nat := s.cfg.timePeriod * 1000

/-- The own sequence counter gives a number and advances (R26). -/
def takeNumber (s : State) : Seq × State :=
  (s.tagger.seq, { s with tagger := { s.tagger with seq := s.tagger.seq + 1 } })

/-- The content of a TIME frame (R141, R193); its carried time is left for the trailer writer. -/
def timeContent (s : State) : List Byte := internalHeader .time s ++ zeros 4

/-- A TIME frame is composed (R141). -/
def sendTime (s : State) : State :=
  let east := !s.isDown .east
  let west := !s.isDown .west
  if east || west then
    match generatorTake .urgent s with
    | (none, s') => s'
    | (some buf, s') =>
      let n := takeNumber (fillBuffer buf (pad60 (timeContent s')) false s')
      let t := enqueueRing east west .urgent buf (internalMark .time n.1 s') n.2
      { t with time := { t.time with sent := raise t.time.sent } }
  else s

/-- TIME_PERIOD_EXPIRY (R141). -/
def execTimePeriodExpiry (s : State) : Host.Outcome State Fault Refusal :=
  finish <|
    if s.clock.due s.time.period then
      sendTime { s with time := { s.time with period := rearmed s.time.period s.timePeriod } }
    else s

/-- The last correction as recorded: −2,147,483,648 is recorded as −2,147,483,647 (R142). -/
def recordedCorrection (d : BitVec 32) : BitVec 32 := if d = 0x80000000#32 then 0x80000001#32 else d

/-- Node time is loaded from a TIME copy with this carried time and received hops (R142). -/
def loadTime (carried : Stamp) (hops : BitVec 6) (s : State) : State :=
  let t := carried + BitVec.ofNat 32 (hops.toNat * s.cfg.hopAllowance.toNat)
  { s with
    clock := { s.clock with nodeTime := t }
    time := { s.time with
      lastCorrection := recordedCorrection (t - s.clock.nodeTime)
      lastLoad := t
      loads := raise s.time.loads } }

end Sys2Proof.Machine
end

