-- ==== Sys2Proof/Machine/Commands.lean ====
section
/-! DEFINITION. Node commands and the report unit's timers (sections 10.1 and 10.3); the commands NODE_COMMAND, REPORT,
ROLL, HALT_ROLL, ZERO, RESTART, BADCOMMAND, REPORT_HOLD_EXPIRY and REPORT_PERIOD_EXPIRY. -/

namespace Sys2Proof.Machine

/-! ## Joining the queue (R181) -/

/-- A frame to the control address is ignored: another type, or in TRANSIT another command than RESTART (R180,
R181). -/
def isIgnored (f : List Byte) (s : State) : Bool :=
  typeField f != s.cfg.controlType || (s.loader.nodeState == .transit && commandCode f != 5)

/-- What the report unit does with a frame it has read (R181). -/
def readCommand (f : List Byte) (s : State) : State :=
  if isIgnored f s then s.countReport fun k => { k with ignored := raise k.ignored }
  else if 2 ≤ s.report.queue.length then s.countReport fun k => { k with cmdDrop := raise k.cmdDrop }
  else
    let c : Command := { code := commandCode f, page := commandPage f, source := sourceAddress f }
    let t : State := { s with report := { s.report with queue := s.report.queue ++ [c] } }
    t.countReport fun k => { k with commands := raise k.commands }

/-- NODE_COMMAND (R181): the report unit reads the oldest frame handed to it and releases its buffer. -/
def execNodeCommand (s : State) : Host.Outcome State Fault Refusal :=
  finish <|
    match s.commandIn with
    | [] => s
    | buf :: rest =>
      let b := s.buffer buf
      readCommand b.bytes (release buf { s with commandIn := rest })

/-! ## Carrying out the head (R182, R183) -/

/-- The head of the queue is a command of a code that `c` picks and has not been carried out. -/
def State.headIs (s : State) (c : Byte → Bool) : Bool :=
  match s.report.queue with
  | [] => false
  | k :: _ => c k.code && k.result == none

/-- The result of the head is fixed (R182). -/
def fixResult (r : CommandResult) (s : State) : State :=
  match s.report.queue with
  | [] => s
  | k :: rest => { s with report := { s.report with queue := { k with result := some r } :: rest } }

/-- The command at the head is carried out, with its effect and result, and its reply is composed (R182, R183). -/
def carryOut (code : Byte → Bool) (effect : State → State) (result : State → CommandResult) (s : State) :
    Host.Outcome State Fault Refusal :=
  finish (if s.headIs code then composeReply (fixResult (result s) (effect s)) else s)

/-- The result of REPORT (R182): BADPAGE for a page above 9. -/
def reportResult (s : State) : CommandResult :=
  match s.report.queue with
  | k :: _ => if k.page.toNat ≤ 9 then .done else .badPage
  | [] => .done

/-- REPORT (R182). -/
def execReport (s : State) : Host.Outcome State Fault Refusal :=
  carryOut (fun c => c == 1) id reportResult s

/-- ROLL (R149): a round starts from IDLE, DONE; or none, BUSY. -/
def execRoll (s : State) : Host.Outcome State Fault Refusal :=
  carryOut (fun c => c == 2) (fun t => if t.roll.running then t else startRound .command t)
    (fun t => if t.roll.running then .busy else .done) s

/-- HALT-ROLL (R162). -/
def execHaltRoll (s : State) : Host.Outcome State Fault Refusal :=
  carryOut (fun c => c == 3) haltRound (fun _ => .done) s

/-- RESTART (R182): the start is taken when the reply's entry ends (R167). -/
def execRestart (s : State) : Host.Outcome State Fault Refusal :=
  carryOut (fun c => c == 5) id (fun _ => .done) s

/-- A code other than those of R194. -/
def isOtherCode (c : Byte) : Bool := c == 0 || decide (5 < c.toNat)

/-- BADCOMMAND (R182). -/
def execBadCommand (s : State) : Host.Outcome State Fault Refusal :=
  carryOut isOtherCode id (fun _ => .badCommand) s

/-! ## ZERO (R182) -/

/-- The record's counters at 0 (R85). -/
def SourceRecord.zeroed (r : SourceRecord) : SourceRecord := { r with counters := {} }

/-- The slot's counters at 0 (R128). -/
def Slot.zeroed (w : Slot) : Slot := { w with arrivals := 0, late := 0, lost := 0, laneDown := 0 }

/-- The lane's counters at 0, and its maximum latency at its last where the record is present (R147). -/
def CheckLane.zeroed (l : CheckLane) : CheckLane :=
  { l with
    latency := if l.latency.present then { l.latency with max := l.latency.last } else l.latency
    sent := 0, returns := 0, lateCheck := 0, breaks := 0 }

def PortUnit.zeroed (u : PortUnit) : PortUnit := { u with counters := {} }

def Egress.zeroed (e : Egress) : Egress := { e with counters := {} }

def Direction.zeroed (d : Direction) : Direction := { d with repeated := 0, lost := 0 }

/-- ZERO sets every event counter of the node to 0, the low-water mark to the free count, and each maximum latency to
the last (R17, R33, R56, R85, R107, R128, R147, R166, R170, R190). -/
def zeroCounters (s : State) : State :=
  { s with
    ports := ⟨s.ports.east.zeroed, s.ports.west.zeroed, s.ports.tap.zeroed⟩
    tagger := { seq := s.tagger.seq }
    filter := { s.filter with clashCount := 0, counters := ⟨{}, {}⟩ }
    sources := s.sources.map SourceRecord.zeroed
    pool := { s.pool with low := s.pool.free, refused := 0 }
    egress := ⟨s.egress.east.zeroed, s.egress.west.zeroed, s.egress.tap.zeroed⟩
    repeater := ⟨s.repeater.east.zeroed, s.repeater.west.zeroed⟩
    slots := s.slots.map Slot.zeroed
    check := { s.check with lanes := ⟨s.check.lanes.e.zeroed, s.check.lanes.w.zeroed⟩ }
    time := { s.time with loads := 0, sent := 0 }
    roll := { s.roll with counters := {} }
    report := { s.report with counters := {} } }

/-- ZERO (R182). -/
def execZero (s : State) : Host.Outcome State Fault Refusal :=
  carryOut (fun c => c == 4) zeroCounters (fun _ => .done) s

/-! ## The report unit's timers (R186) -/

/-- REPORT_HOLD_EXPIRY (R186): the hold stops; a reply that waits is composed, and then, in RUNNING and FALLBACK, one
report frame if something waits. -/
def execReportHoldExpiry (s : State) : Host.Outcome State Fault Refusal :=
  finish <|
    if s.clock.due s.report.hold then
      let t := composeReply { s with report := { s.report with hold := none } }
      if t.member then composeWaiting t else t
    else s

/-- REPORT_PERIOD_EXPIRY (R186): the period-due flag is set and the timer rearmed; a report goes out at once if the
hold is run out (`settle`). -/
def execReportPeriodExpiry (s : State) : Host.Outcome State Fault Refusal :=
  finish <|
    if s.clock.due s.report.period then
      { s with report := { s.report with
        periodDue := true, period := rearmed s.report.period (s.cfg.reportPeriod * 10000) } }
    else s

end Sys2Proof.Machine
end

