-- ==== Sys2Proof/Machine/StreamWatch.lean ====
section
/-! DEFINITION. Stream watch (chapter 6); the commands STREAM_TIMER_EXPIRY, LANE_TIMER_EXPIRY and
START_DEADLINE_EXPIRY. -/

namespace Sys2Proof.Machine

/-- What the ring filter tells stream watch of a copy (R44, R110). -/
structure CopyNotice where
  first : Bool
  source : BitVec 6
  seq : Seq
  lane : Lane
  cls : Class
  appid : BitVec 16
  arrival : Stamp
  deriving DecidableEq, Repr

/-! ## Matching (R110, R111) -/

/-- The class a slot asks for matches a class (R111). -/
def WatchClass.covers (w : WatchClass) (c : Class) : Bool :=
  match w, c with
  | .any, _ => true
  | .urgent, .urgent => true
  | .stream, .stream => true
  | .bulk, .bulk => true
  | _, _ => false

/-- An in-use slot matches a copy (R111). -/
def Slot.covers (w : Slot) (n : CopyNotice) : Bool :=
  w.inUse && (w.config.source == 0 || w.config.source == n.source) && w.config.cls.covers n.cls &&
    n.appid &&& w.config.mask == w.config.appid &&& w.config.mask

/-- The first matching slot in index order (R110). -/
def State.matchingSlot (s : State) (n : CopyNotice) : Option Nat := s.slots.toList.findIdx? fun w => w.covers n

/-! ## Taking a copy (R112 to R115) -/

/-- The interval of a slot in timer units (R108). -/
def Slot.interval (w : Slot) : Nat := w.config.interval.toNat * 10

/-- A timer of a slot with its next expiry after I (R120). -/
def Slot.timerFrom (c : Clock) (w : Slot) : Timer := c.timer w.interval

/-- A FIRST copy acts on the stream (R113). -/
def Slot.streamFirst (c : Clock) (w : Slot) : Slot :=
  { w with
    status := .live
    miss := 0
    timer := some (w.timerFrom c)
    deadline := if w.status = .await then none else w.deadline }

/-- A copy on lane `x` makes that lane UP and restarts its timer (R114). -/
def Slot.laneArrives (c : Clock) (x : Lane) (w : Slot) : Slot :=
  let l := { w.lanes.get x with status := .up, miss := 0, timer := some (w.timerFrom c) }
  { w with lanes := w.lanes.set x l }

/-- A lane still AWAIT at the stream's first appearance starts its timer (R115). -/
def Slot.superviseLane (c : Clock) (x : Lane) (w : Slot) : Slot :=
  if (w.lanes.get x).status = .await then
    let l := { w.lanes.get x with miss := 0, timer := some (w.timerFrom c) }
    { w with lanes := w.lanes.set x l }
  else w

/-- ARRIVALS and the lane record (R112). -/
def Slot.recordCopy (n : CopyNotice) (w : Slot) : Slot :=
  { w with
    arrivals := raise w.arrivals
    lanes := w.lanes.set n.lane { w.lanes.get n.lane with record := some ⟨n.seq, n.arrival⟩ } }

/-- A copy is taken by its slot: the stream, then the lane, then the record (section 6.3). -/
def Slot.take (c : Clock) (n : CopyNotice) (w : Slot) : Slot :=
  let appears := n.first && w.status == .await
  let v := if n.first then w.streamFirst c else w
  let v := if v.status = .lost then v else v.laneArrives c n.lane
  let v := if appears then v.superviseLane c n.lane.other else v
  v.recordCopy n

/-! ## Timers (R116 to R119) -/

/-- A lane of a slot whose stream became LOST (R119). -/
def SlotLane.lose (allowM : Nat) (l : SlotLane) : SlotLane :=
  if l.status = .down then l else { l with status := .down, miss := allowM, timer := none }

/-- How many lanes are not yet DOWN. -/
def Slot.lanesNotDown (w : Slot) : Nat :=
  (if w.lanes.e.status = .down then 0 else 1) + (if w.lanes.w.status = .down then 0 else 1)

/-- The stream becomes LOST: LOST is counted, every timer stops, and each lane not already DOWN becomes DOWN and is
counted (R116, R118, R119). -/
def Slot.lose (w : Slot) : Slot :=
  { w with
    status := .lost
    miss := w.config.allowN
    timer := none
    deadline := none
    lanes := ⟨w.lanes.e.lose w.config.allowM, w.lanes.w.lose w.config.allowM⟩
    lost := raise w.lost
    laneDown := raiseBy w.lanesNotDown w.laneDown }

/-- The stream timer expires in LIVE or LATE (R116). -/
def Slot.streamExpires (w : Slot) : Slot :=
  if w.miss + 1 < w.config.allowN then
    { w with
      status := .late
      miss := w.miss + 1
      timer := rearmed w.timer w.interval
      late := if w.status = .live then raise w.late else w.late }
  else w.lose

/-- A lane timer expires on a lane that is not DOWN (R117). -/
def Slot.laneExpires (x : Lane) (w : Slot) : Slot :=
  let l := w.lanes.get x
  if l.miss + 1 < w.config.allowM then
    { w with lanes := w.lanes.set x { l with miss := l.miss + 1, timer := rearmed l.timer w.interval } }
  else
    { w with
      lanes := w.lanes.set x { l with status := .down, miss := w.config.allowM, timer := none }
      laneDown := raise w.laneDown }

/-! ## The table -/

/-- A status changed: the slot item is noted (R125). -/
def Slot.statusDiffers (v w : Slot) : Bool :=
  v.status != w.status || v.lanes.e.status != w.lanes.e.status || v.lanes.w.status != w.lanes.w.status

/-- A slot is replaced, and noted when a status changed (R125). -/
def updateSlot (n : Nat) (w : Slot) (s : State) : State :=
  noteIf ((s.slot n).statusDiffers w) (.slot n) { s with slots := s.slots.setIfInBounds n w }

/-- The ring filter tells stream watch of a copy: its first matching slot takes it (R110). -/
def tellStreamWatch (n : CopyNotice) (s : State) : State :=
  match s.matchingSlot n with
  | none => s
  | some i => updateSlot i ((s.slot i).take s.clock n) s

/-- The stream timer of a slot expires now: it runs in LIVE and LATE alone (R116). -/
def Slot.streamDue (c : Clock) (w : Slot) : Bool :=
  (w.status == .live || w.status == .late) && c.due w.timer

/-- A lane timer of a slot expires now: it runs while its lane is AWAIT or UP (R117). -/
def Slot.laneDue (c : Clock) (x : Lane) (w : Slot) : Bool :=
  (w.lanes.get x).status != .down && c.due (w.lanes.get x).timer

/-- STREAM_TIMER_EXPIRY (R116). -/
def execStreamTimerExpiry (slot : Nat) (s : State) : Host.Outcome State Fault Refusal :=
  finish (if slot < 32 ∧ (s.slot slot).streamDue s.clock = true then updateSlot slot (s.slot slot).streamExpires s else s)

/-- LANE_TIMER_EXPIRY (R117). -/
def execLaneTimerExpiry (slot : Nat) (lane : Lane) (s : State) : Host.Outcome State Fault Refusal :=
  finish (if slot < 32 ∧ (s.slot slot).laneDue s.clock lane = true then
    updateSlot slot ((s.slot slot).laneExpires lane) s else s)

/-- START_DEADLINE_EXPIRY (R118): with the stream still AWAIT it becomes LOST. -/
def execStartDeadlineExpiry (slot : Nat) (s : State) : Host.Outcome State Fault Refusal :=
  finish (if slot < 32 ∧ (s.slot slot).status = .await ∧ s.clock.due (s.slot slot).deadline = true then
    updateSlot slot (s.slot slot).lose s else s)

end Sys2Proof.Machine
end

