-- ==== Sys2Proof/Machine/RingFilter.lean ====
section
/-! DEFINITION. The ring filter (chapter 3): its stages on one frame; the commands RING_FILTER and
CLASH_HOLD_EXPIRY. -/

namespace Sys2Proof.Machine

/-! ## Stage 1: foreign frames (R35) -/

/-- The kind of a ring frame that is not foreign; none when its check differs, or its source is 0 or 63, or its kind
is 4 to 7 (R35). -/
def ringKind (b : Buffer) : Option Kind :=
  if trailerCheckOk b.trailerBytes && b.trailer.source != 0 && b.trailer.source != 63 then kindOfCode b.trailer.kind
  else none

/-- A foreign frame is discarded (R35). -/
def foreignFrame (p : RingPort) (buf : Nat) (s : State) : State :=
  release buf (indEvent p.port .foreign (s.countFilter p fun k => { k with foreign := raise k.foreign }))

/-! ## Stage 2: crossed copies (R36) -/

/-- The frame is crossed: its lane's own port is the port it arrived on, unless it is a turned roll (R36). -/
def isCrossed (p : RingPort) (k : Kind) (b : Buffer) : Bool :=
  decide (b.trailer.lane.ownPort = p) && !(k == .roll && rollTurned b.body)

/-- A crossed frame is counted and marked, and goes on unchanged (R36). -/
def crossedMark (p : RingPort) (crossed : Bool) (s : State) : State :=
  if crossed then
    indEvent p.port .crossed (s.countFilter p fun k => { k with crossed := raise k.crossed })
  else s

/-! ## Stage 3: admission (R37) -/

/-- The class by which the pool judges a ring frame (R37). -/
def admissionClass (k : Kind) (t : Trailer) : Class := if k = .data then classOfField t.cls else .urgent

/-! ## Stage 4: own frames (R38 to R41) -/

/-- A number lies in the own-return window (R31, R39). -/
def inReturnWindow (counter s : Seq) : Bool := (counter - s - 1).toNat ≤ 1023

/-- The clash hold is 1 s (R41). -/
def clashHoldLength : Nat := 100000

/-- A clash frame is discarded, and the clash hold is started or restarted (R40, R41). -/
def clashFrame (buf : Nat) (s : State) : State :=
  release buf (noteIf (!s.filter.clash) .clash
    { s with filter := { s.filter with
      clash := true
      hold := some (s.clock.timer clashHoldLength)
      clashCount := raise s.filter.clashCount } })

/-- CLASH_HOLD_EXPIRY (R41): the indication is cleared and the clash item noted. -/
def execClashHoldExpiry (s : State) : Host.Outcome State Fault Refusal :=
  finish <|
    if s.clock.due s.filter.hold then
      noteIf s.filter.clash .clash { s with filter := { s.filter with clash := false, hold := none } }
    else s

/-- A return is removed (R39). -/
def returnedFrame (p : RingPort) (buf : Nat) (s : State) : State :=
  release buf (s.countFilter p fun k => { k with returned := raise k.returned })

/-- The origin tag of a CHECK frame (R193). -/
def checkTag (body : List Byte) : BitVec 32 := BitVec.ofNat 32 (fieldAt body 14 4)

/-- The send time of a CHECK frame (R193). -/
def checkSendTime (body : List Byte) : Stamp := BitVec.ofNat 32 (fieldAt body 18 4)

/-- An own frame ends at stage 4 (R38). R54 releases the buffer of a CHECK frame after the ring check unit has read it;
that a round which the return triggers takes its buffer before that release is the model's choice (log 39). -/
def ownFrame (p : RingPort) (h : Handed) (k : Kind) (b : Buffer) (s : State) : State :=
  match k with
  | .data => if inReturnWindow s.tagger.seq b.trailer.seq then returnedFrame p h.buf s else clashFrame h.buf s
  | .time => if inReturnWindow s.tagger.seq b.trailer.seq then returnedFrame p h.buf s else clashFrame h.buf s
  | .check =>
    if checkTag b.body = s.cfg.originTag then
      release h.buf (takeReturn b.trailer (checkSendTime b.body) h.arrival s)
    else clashFrame h.buf s
  | .roll => { s with rollIn := s.rollIn ++ [⟨h.buf, p, true⟩] }

/-! ## Stages 7 and 8: delivery and forwarding (R49 to R52) -/

/-- A delivery filter entry matches a frame (R49). -/
def FilterEntry.covers (f : FilterEntry) (body : List Byte) : Bool :=
  match f.selector with
  | .destination => destination body &&& f.mask == f.value &&& f.mask
  | .type => typeField body &&& f.mask.setWidth 16 == f.value.setWidth 16 &&& f.mask.setWidth 16
  | .appid => appidField body &&& f.mask.setWidth 16 == f.value.setWidth 16 &&& f.mask.setWidth 16

/-- The delivery filter passes a frame: the first matching entry's action, else the default action (R49). -/
def Settings.passes (c : Settings) (body : List Byte) : Bool :=
  match c.filter.find? fun f => f.covers body with
  | some f => f.pass
  | none => c.filterPass

/-- A FIRST DATA copy is delivered or blocked (R50). -/
def deliver (p : RingPort) (buf : Nat) (c : Class) (body : List Byte) (s : State) : State :=
  if s.cfg.passes body then
    enqueue .tap c buf .delivered (s.countFilter p fun k => { k with delivered := raise k.delivered })
  else s.countFilter p fun k => { k with blocked := raise k.blocked }

/-- A forwarding candidate goes to the opposite port, or meets a dead end (R51). -/
def forward (p : RingPort) (buf : Nat) (c : Class) (s : State) : State :=
  if s.isDown p.opposite.port then s.countFilter p fun k => { k with deadEnd := raise k.deadEnd }
  else enqueue p.opposite.port c buf .forwarded (s.countFilter p fun k => { k with forwarded := raise k.forwarded })

/-! ## Stages 5 and 6: hop limit and dispatch (R42 to R48) -/

/-- The hops field is at or above the hop limit (R42). -/
def isExpired (t : Trailer) (s : State) : Bool := s.cfg.profile.hopLimit ≤ t.hops.toNat

/-- An expired frame is counted (R42). -/
def countExpired (p : RingPort) (expired : Bool) (s : State) : State :=
  if expired then s.countFilter p fun k => { k with expired := raise k.expired } else s

/-- A peer DATA frame (R43, R44): verdict, stream watch, delivery, forwarding, and the reception's hold ends (R54). -/
def peerData (p : RingPort) (h : Handed) (b : Buffer) (expired : Bool) (s : State) : State :=
  let t := b.trailer
  let r := requestVerdict t h.arrival s
  let cls := classOfField t.cls
  match r.1 with
  | .repeated => release h.buf r.2
  | .stale => release h.buf r.2
  | .duplicate =>
    let s := tellStreamWatch ⟨false, t.source, t.seq, t.lane, cls, appidField b.body, h.arrival⟩ r.2
    release h.buf (if expired then s else forward p h.buf cls s)
  | .first =>
    let s := tellStreamWatch ⟨true, t.source, t.seq, t.lane, cls, appidField b.body, h.arrival⟩ r.2
    let s := deliver p h.buf cls b.body s
    release h.buf (if expired then s else forward p h.buf cls s)

/-- The carried time of a TIME frame (R193). -/
def carriedTime (body : List Byte) : Stamp := BitVec.ofNat 32 (fieldAt body 14 4)

/-- A peer TIME frame (R45): verdict, node time loaded from a FIRST copy of the time source, forwarding. -/
def peerTime (p : RingPort) (h : Handed) (b : Buffer) (expired : Bool) (s : State) : State :=
  let t := b.trailer
  let r := requestVerdict t h.arrival s
  match r.1 with
  | .repeated => release h.buf r.2
  | .stale => release h.buf r.2
  | .duplicate => release h.buf (if expired then r.2 else forward p h.buf .urgent r.2)
  | .first =>
    let s := if s.cfg.timeSource ≠ 0 ∧ t.source = s.cfg.timeSource then loadTime (carriedTime b.body) t.hops r.2 else r.2
    release h.buf (if expired then s else forward p h.buf .urgent s)

/-- A peer frame, after the hop limit (R42 to R47). -/
def peerFrame (p : RingPort) (h : Handed) (k : Kind) (b : Buffer) (s : State) : State :=
  let expired := isExpired b.trailer s
  let s := countExpired p expired s
  match k with
  | .data => peerData p h b expired s
  | .time => peerTime p h b expired s
  | .check => release h.buf (if expired then s else forward p h.buf .urgent s)
  | .roll => if expired then release h.buf s else { s with rollIn := s.rollIn ++ [⟨h.buf, p, false⟩] }

/-! ## The stages in order (R34) -/

/-- One frame through the stages (R34). -/
def filterFrame (p : RingPort) (h : Handed) (s : State) : State :=
  let b := s.buffer h.buf
  match ringKind b with
  | none => foreignFrame p h.buf s
  | some k =>
    let s := crossedMark p (isCrossed p k b) s
    if !s.admits (admissionClass k b.trailer) then refuseAdmission p.port (release h.buf s)
    else if b.trailer.source = s.node then ownFrame p h k b s
    else peerFrame p h k b s

/-- RING_FILTER (R34): the ring filter, which acts while the node is RUNNING or FALLBACK, takes the oldest frame
handed over by this ring port. -/
def execRingFilter (p : RingPort) (s : State) : Host.Outcome State Fault Refusal :=
  finish <|
    match s.handed.get p with
    | [] => s
    | h :: rest =>
      if s.member then filterFrame p h { s with handed := s.handed.set p rest } else s

end Sys2Proof.Machine
end

