-- ==== Sys2Proof/Machine/Reception.lean ====
section
/-! DEFINITION. Reception (section 1.2) and the tap path with the lane tagger (chapter 2); the commands FRAME_START,
GIANT and FRAME_END. -/

namespace Sys2Proof.Machine

/-! ## Frame start (R4, R5) -/

/-- The receiver of a port changes. -/
def setRx (p : Port) (r : Receiver) (s : State) : State := s.setPort p { s.port p with rx := r }

/-- A receiver enters STORING with a pool buffer, or DISCARDING when none is free (R5). -/
def storeStart (p : Port) (s : State) : State :=
  if s.free = 0 then
    indEvent p .pool ((setRx p (.discarding false) s).countPort p fun k => { k with noBuffer := raise k.noBuffer })
  else setRx p (.storing s.pool.take.1) { s with pool := s.pool.take.2 }

/-- A reception starts as the table of R4 gives it. -/
def startReception (p : Port) (s : State) : State :=
  match p.ring? with
  | some r => if s.member then storeStart p s else repeatStart r s
  | none => if s.loader.nodeState = .loading then setRx p (.discarding false) s else storeStart p s

/-- FRAME_START (R4): a frame at a DOWN port, at a receiver that is not IDLE or in RESET (R167) is ignored. -/
def execFrameStart (p : Port) (s : State) : Host.Outcome State Fault Refusal :=
  finish <|
    if s.loader.nodeState = .reset ∨ s.isDown p = true ∨ (s.port p).rx ≠ .idle then s else startReception p s

/-! ## Giants (R6) -/

/-- The buffer or store a receiver holds returns at once (R6, R10, R169, R170). -/
def dropReception (p : Port) (s : State) : State :=
  match (s.port p).rx, p.ring? with
  | .storing buf, _ => release buf s
  | .repeating isFirst, some r => freeStore r isFirst s
  | _, _ => s

/-- The receiver after the giant mark (R6, R169). -/
def Receiver.markGiant : Receiver → Receiver
  | .idle => .idle
  | .storing _ => .discarding true
  | .discarding _ => .discarding true
  | .repeating _ => .unkept true
  | .unkept _ => .unkept true

/-- GIANT (R6): the frame in progress is marked giant and its buffer or store is freed at once. -/
def execGiant (p : Port) (s : State) : Host.Outcome State Fault Refusal :=
  finish (setRx p (s.port p).rx.markGiant (dropReception p s))

/-! ## Outcomes (R8) -/

/-- The outcomes of a frame (R8). -/
inductive FrameOutcome where
  | giant
  | runt
  | align
  | fcs
  | intact
  deriving DecidableEq, Repr

/-- The longest accepted length of a port (section 1.2). -/
def longest : Port → Nat
  | .tap => 1522
  | .east => 1528
  | .west => 1528

/-- The frame in progress is marked giant. -/
def Receiver.isGiant : Receiver → Bool
  | .discarding g => g
  | .unkept g => g
  | _ => false

/-- The outcome of a frame, first test met (R8). A frame longer than its port accepts is a giant even where its GIANT
event was not told apart from its end (log 17). -/
def frameOutcome (p : Port) (marked : Bool) (bytes : List Byte) (steps : Nat) : FrameOutcome :=
  if marked ∨ longest p < bytes.length then .giant
  else if bytes.length < 64 then .runt
  else if steps % 4 ≠ 0 then .align
  else if fcsOk bytes then .intact
  else .fcs

/-- The error counter of an outcome (R8, R11). -/
def PortCounters.outcome (o : FrameOutcome) (k : PortCounters) : PortCounters :=
  match o with
  | .giant => { k with giant := raise k.giant }
  | .runt => { k with runt := raise k.runt }
  | .align => { k with align := raise k.align }
  | .fcs => { k with fcs := raise k.fcs }
  | .intact => k

/-- The outcome is counted in the running scan window and in its error counter, and the receiver returns to IDLE (R8,
R12). -/
def countOutcome (p : Port) (o : FrameOutcome) (s : State) : State :=
  let u := s.port p
  s.setPort p { u with
    rx := .idle
    errors := if o = .intact then u.errors else min 65535 (u.errors + 1)
    good := if o = .intact then min 65535 (u.good + 1) else u.good
    counters := u.counters.outcome o }

/-! ## The tap path (R22 to R29) -/

/-- The class of a tap traffic frame: the first class map entry for its type, else its priority tag, else BULK (R24,
R25). -/
def classify (map : List (BitVec 16 × Class)) (f : List Byte) : Class :=
  match map.find? fun e => e.1 == typeField f with
  | some e => e.2
  | none =>
    if tagged f then
      if 5 ≤ tagPriority f then .urgent else if tagPriority f = 4 then .stream else .bulk
    else .bulk

/-- The lane tagger originates an admitted traffic frame, as the table of R28 gives it (R26, R29). -/
def originate (buf : Nat) (c : Class) (s : State) : State :=
  let east := !s.isDown .east
  let west := !s.isDown .west
  if east || west then
    let n := takeNumber s
    let mark : Mark := .originated .data c n.1 s.loader.ownEpoch s.node
    let t := n.2
    enqueueRing east west c buf mark
      { t with tagger := { t.tagger with
        originated := raise t.tagger.originated
        single := if east && west then t.tagger.single else raise t.tagger.single } }
  else
    release buf { s with tagger := { s.tagger with isolated := raise s.tagger.isolated } }

/-- The tap path (R22): a node command to the report unit, traffic to the lane tagger, or in TRANSIT released. -/
def tapPath (buf : Nat) (f : List Byte) (s : State) : State :=
  if destination f = s.cfg.control then { s with commandIn := s.commandIn ++ [buf] }
  else if s.member then
    let c := classify s.cfg.classMap f
    if s.admits c then originate buf c s else refuseAdmission .tap (release buf s)
  else release buf s

/-! ## Frame end (R8, R9, R169) -/

/-- A stored INTACT frame is handed on (R9): to the ring filter with its arrival time (R34), or to the tap path. -/
def handOn (p : Port) (buf : Nat) (bytes : List Byte) (s : State) : State :=
  let t := fillBuffer buf bytes true (s.countPort p fun k => { k with rxGood := raise k.rxGood })
  match p.ring? with
  | some r => { t with handed := t.handed.set r (t.handed.get r ++ [⟨buf, t.clock.nodeTime⟩]) }
  | none => tapPath buf bytes t

/-- What becomes of an INTACT frame, by where its receiver put it (R9, R169). -/
def intactFrame (p : Port) (rx : Receiver) (bytes : List Byte) (s : State) : State :=
  match rx, p.ring? with
  | .storing buf, _ => handOn p buf bytes s
  | .repeating isFirst, some r => repeatEnd r isFirst bytes s
  | .unkept _, some r => repeatLost r 1 s
  | _, _ => s

/-- A frame in progress ends (R8). -/
def endFrame (p : Port) (bytes : List Byte) (steps : Nat) (s : State) : State :=
  let rx := (s.port p).rx
  let o := frameOutcome p rx.isGiant bytes steps
  if o = .intact then intactFrame p rx bytes (countOutcome p o s)
  else countOutcome p o (dropReception p s)

/-- FRAME_END (R8): without a frame in progress the data is ignored. -/
def execFrameEnd (p : Port) (bytes : List Byte) (steps : Nat) (s : State) : Host.Outcome State Fault Refusal :=
  finish (if (s.port p).rx = .idle then s else endFrame p bytes steps s)

end Sys2Proof.Machine
end

