-- ==== Sys2Proof/Machine/Links.lean ====
section
/-! DEFINITION. Port states and the link monitor (sections 1.1 and 1.4); the commands LINK_FALL, LINK_RISE,
QUALIFICATION_EXPIRY and SCAN_WINDOW_END. -/

namespace Sys2Proof.Machine

/-- A link input takes a level. -/
def setLink (p : Port) (level : Bool) (s : State) : State :=
  { s with pins := { s.pins with links := s.pins.links.set p level } }

/-- The qualification time, 20 ms (R2). -/
def qualificationLength : Nat := 2000

/-- A port unit that enters DOWN: window stopped, counts, flags and indications cleared, a reception cut (R1, R3,
R10). -/
def PortUnit.enterDown (u : PortUnit) : PortUnit :=
  { u with
    state := .down
    qual := none
    rx := .idle
    window := none
    errors := 0
    good := 0
    flags := {}
    ind := {}
    counters := { u.counters with
      linkDown := raise u.counters.linkDown
      cut := if u.rx = .idle then u.counters.cut else raise u.counters.cut } }

/-- A port enters DOWN from UP or DEGRADED, and the blocks that read its state react (R3): the reception is cut (R10),
the egress flushed (R102), the repeater's frames out of it dropped (R170), both lanes broken (R136). R3 lets these
reactions occur in any order; that the cut reception and the flush return their buffers first, before a round that the
broken lanes trigger takes its own, is the model's choice (log 37). -/
def fallen (p : Port) (s : State) : State :=
  let t := dropReception p s
  let t := flush p (t.setPort p (t.port p).enterDown)
  match p.ring? with
  | some r => breakLanes (repeatDrop r t)
  | none => t

/-- A port enters DOWN, and what changed is noted: the port, then the lanes and the ring (R16, R137), an order that is the
model's choice (log 40). The round that a change of the ring state triggers comes after every other reaction to the
fall, the model's choice too (log 37). -/
def portFalls (p : Port) (s : State) : State := tellLanes s.check (note (.port p) (fallen p s))

/-- LINK_FALL (R1). A port already DOWN stays DOWN with its qualification timer cleared. -/
def execLinkFall (p : Port) (s : State) : Host.Outcome State Fault Refusal :=
  let t := setLink p false s
  finish (if t.isDown p then t.setPort p { t.port p with qual := none } else portFalls p t)

/-- LINK_RISE (R1, R2): the qualification timer of a DOWN port starts or restarts. -/
def execLinkRise (p : Port) (s : State) : Host.Outcome State Fault Refusal :=
  let t := setLink p true s
  finish (if t.isDown p then
    t.setPort p { t.port p with qual := some (t.clock.timer qualificationLength) } else t)

/-- A DOWN port becomes UP (R2): LINK-UP, and the first scan window starts with its counts at 0. Its egress queues are
empty and its transmitter free since it entered DOWN (R102, R104). -/
def PortUnit.enterUp (window : Timer) (u : PortUnit) : PortUnit :=
  { u with
    state := .up
    qual := none
    window := some window
    errors := 0
    good := 0
    flags := {}
    counters := { u.counters with linkUp := raise u.counters.linkUp } }

/-- QUALIFICATION_EXPIRY (R2). -/
def execQualificationExpiry (p : Port) (s : State) : Host.Outcome State Fault Refusal :=
  finish <|
    if s.isDown p && s.pins.links.get p && s.clock.due (s.port p).qual then
      note (.port p) (s.setPort p ((s.port p).enterUp (s.clock.timer s.windowLength)))
    else s

/-- The SILENT indication a window end gives (R14): on a ring port with G not 0, fewer good frames than G. -/
def silentAfter (p : Port) (floor good : Nat) : Bool :=
  p.ring?.isSome && floor != 0 && decide (good < floor)

/-- A port unit judged at a window end, with the next window started (R12 to R15). -/
def PortUnit.judgeWindow (p : Port) (bound floor length : Nat) (u : PortUnit) : PortUnit :=
  { u with
    state := if bound < u.errors then .degraded else .up
    window := rearmed u.window length
    errors := 0
    good := 0
    flags := {}
    ind := { silent := silentAfter p floor u.good, foreign := u.flags.foreign, crossed := u.flags.crossed,
             pool := u.flags.pool }
    counters := { u.counters with
      degraded := if bound < u.errors ∧ u.state = .up then raise u.counters.degraded else u.counters.degraded } }

/-- SCAN_WINDOW_END (R12): a change of state or of an indication notes the port (R16). -/
def execScanWindowEnd (p : Port) (s : State) : Host.Outcome State Fault Refusal :=
  finish <|
    if !s.isDown p && s.clock.due (s.port p).window then
      let u := s.port p
      let v := u.judgeWindow p s.errorBound s.goodFloor s.windowLength
      noteIf (v.state != u.state || v.ind != u.ind) (.port p) (s.setPort p v)
    else s

end Sys2Proof.Machine
end

