-- ==== Sys2Proof/Machine/Loader.lean ====
section
/-! DEFINITION. The loader (sections 9.3 to 9.6): the image checks, the configuration set, the epoch write-back and
the end of LOADING; the commands IMAGE_READ_ATTEMPT, EPOCH_READ_ATTEMPT, EPOCH_WRITE, EPOCH_POLL and
EPOCH_POLL_TIMEOUT. -/

namespace Sys2Proof.Machine

/-! ## The image checks (R172, R197) -/

/-- The first `n` bytes of the EEPROM as the read gave them; a byte the operand does not supply is a free value
(log 21). -/
def readBytes (given : List Byte) (n : Nat) : List Byte :=
  given.take n ++ (List.range' given.length (n - given.length)).map Config.eepromByte

/-- The length field of the image header (R197). -/
def imageLength (header : List Byte) : Nat := fieldAt header 4 2

/-- Checks 1 to 3 of R172, made on the header: the reason of the first that fails. -/
def headerFault (header : List Byte) : Option ImageStatus :=
  if fieldAt header 0 2 ≠ 0xE6B3 then some .badMagic
  else if byteAt header 2 ≠ 1 then some .badFormat
  else if imageLength header < 32 ∨ 2000 < imageLength header then some .badLength
  else none

/-- Where the tables of an image end: the byte after their last one (R197). -/
def tablesEnd (image : List Byte) : Nat :=
  42 + 3 * (byteAt image 39).toNat + 14 * (byteAt image 40).toNat + 11 * (byteAt image 41).toNat

/-- Checks 4 and 5 of R172, made on the whole image; the fixed part is a table of one entry (R197). -/
def bodyFault (image : List Byte) : Option ImageStatus :=
  let n := image.length
  if (crc16 (image.take (n - 2))).toNat ≠ fieldAt image (n - 2) 2 then some .badCrc
  else if n < 44 ∨ n - 2 < tablesEnd image then some .badLayout
  else none

/-- An attempt's status, and the image where it is GOOD (R171, R172). -/
def attemptResult : ImageRead → ImageStatus × List Byte
  | .failed _ => (.noAck, [])
  | .bytes given =>
    let header := readBytes given 8
    match headerFault header with
    | some r => (r, [])
    | none =>
      let image := readBytes given (imageLength header)
      match bodyFault image with
      | some r => (r, [])
      | none => (.good, image)

/-! ## Profiles, overrides and clamps (R173, R174) -/

/-- The four timing profiles (R173), in the steps the image counts in. -/
def profileOf (n : BitVec 2) : Profile :=
  if n = 0 then ⟨10, 3, 50, 8, 20, 10, 62, 10, 0, 0⟩
  else if n = 1 then ⟨2, 3, 10, 4, 5, 2, 62, 10, 0, 0⟩
  else if n = 2 then ⟨50, 4, 200, 16, 100, 50, 62, 10, 0, 0⟩
  else ⟨5, 3, 30, 8, 10, 5, 16, 10, 0, 0⟩

/-- A value clamped to a range, with the number of replacements, 0 or 1 (R174). -/
def clampTo (lo hi x : Nat) : Nat × Nat :=
  if x < lo then (lo, 1) else if hi < x then (hi, 1) else (x, 0)

/-- A setting: its override clamped when its presence flag is set, else the profile's value (R173). -/
def overridden (present : Bool) (lo hi value profile : Nat) : Nat × Nat :=
  if present then clampTo lo hi value else (profile, 0)

/-- The ten settings of an image over a profile, and how many were clamped (R173, R174, R197). -/
def imageProfile (image : List Byte) (flags : BitVec 10) (p : Profile) : Profile × Nat :=
  let b := fun i => (byteAt image i).toNat
  let checkPeriod := overridden (flags.getLsbD 0) 1 255 (b 10) p.checkPeriod
  let missLimit := overridden (flags.getLsbD 1) 1 15 (b 11) p.missLimit
  let aging := overridden (flags.getLsbD 2) 1 255 (b 12) p.aging
  let streakLimit := overridden (flags.getLsbD 3) 2 255 (b 13) p.streakLimit
  let rollTimeout := overridden (flags.getLsbD 4) 1 255 (b 14) p.rollTimeout
  let scanWindow := overridden (flags.getLsbD 5) 1 255 (b 15) p.scanWindow
  let hopLimit := overridden (flags.getLsbD 6) 1 63 (b 16) p.hopLimit
  let errorBound := overridden (flags.getLsbD 7) 0 255 (b 17) p.errorBound
  let goodFloor := overridden (flags.getLsbD 8) 0 65535 (fieldAt image 18 2) p.goodFloor
  let streamAge := overridden (flags.getLsbD 9) 0 255 (b 20) p.streamAge
  (⟨checkPeriod.1, missLimit.1, aging.1, streakLimit.1, rollTimeout.1, scanWindow.1, hopLimit.1, errorBound.1,
    goodFloor.1, streamAge.1⟩,
   checkPeriod.2 + missLimit.2 + aging.2 + streakLimit.2 + rollTimeout.2 + scanWindow.2 + hopLimit.2 + errorBound.2 +
    goodFloor.2 + streamAge.2)

/-! ## Tables (R175, R197) -/

/-- A class map entry, and its clamps: a code above 2 becomes URGENT (R174). -/
def classMapEntry (image : List Byte) (at' : Nat) : (BitVec 16 × Class) × Nat :=
  let c := clampTo 0 2 (byteAt image (at' + 2)).toNat
  ((BitVec.ofNat 16 (fieldAt image at' 2), classOfField (BitVec.ofNat 2 c.1)), c.2)

/-- The selector of a code 0 to 2 (section 11.5). -/
def selectorOf (n : Nat) : Selector := if n = 0 then .destination else if n = 1 then .type else .appid

/-- A delivery filter entry, and its clamps (R174): 14 bytes. -/
def filterTableEntry (image : List Byte) (at' : Nat) : FilterEntry × Nat :=
  let sel := clampTo 0 2 (byteAt image at').toNat
  let act := clampTo 0 1 (byteAt image (at' + 13)).toNat
  (⟨selectorOf sel.1, BitVec.ofNat 48 (fieldAt image (at' + 1) 6), BitVec.ofNat 48 (fieldAt image (at' + 7) 6),
    act.1 == 1⟩, sel.2 + act.2)

/-- The watch class of a code 0 to 3 (section 11.5). -/
def watchClassOf (n : Nat) : WatchClass :=
  if n = 0 then .any else if n = 1 then .urgent else if n = 2 then .stream else .bulk

/-- A watch table entry, and its clamps (R174): 11 bytes. -/
def watchTableEntry (image : List Byte) (at' : Nat) : WatchConfig × Nat :=
  let b := fun i => (byteAt image (at' + i)).toNat
  let source := clampTo 0 62 (b 0)
  let cls := clampTo 0 3 (b 1)
  let interval := clampTo 1 65535 (fieldAt image (at' + 6) 2)
  let allowN := clampTo 1 16 (b 8)
  let allowM := clampTo 1 16 (b 9)
  let required := clampTo 0 1 (b 10)
  ({ source := BitVec.ofNat 6 source.1
     cls := watchClassOf cls.1
     appid := BitVec.ofNat 16 (fieldAt image (at' + 2) 2)
     mask := BitVec.ofNat 16 (fieldAt image (at' + 4) 2)
     interval := BitVec.ofNat 16 interval.1
     allowN := allowN.1
     allowM := allowM.1
     required := required.1 == 1 },
   source.2 + cls.2 + interval.2 + allowN.2 + allowM.2 + required.2)

/-- The placed entries of a table: the listed ones up to the table's size, in order (R175). -/
def placed {α : Type} (read : Nat → α × Nat) (start size count limit : Nat) : List (α × Nat) :=
  (List.range (min count limit)).map fun i => read (start + i * size)

/-- The clamps of placed entries. -/
def clampsOf {α : Type} (l : List (α × Nat)) : Nat := (l.map Prod.snd).sum

/-! ## The configuration set (R173 to R177) -/

/-- The node number and the node state that ends LOADING, for a good image (R176): the answer's last part is
NODE-STRAPPED. -/
def goodNode (imageNode : Byte) (strap : BitVec 6) : BitVec 6 × NodeState × Bool :=
  if 1 ≤ imageNode.toNat ∧ imageNode.toNat ≤ 62 then (imageNode.setWidth 6, .running, false)
  else if strap = 0 ∨ strap = 63 then (strap, .transit, true)
  else (strap, .running, true)

/-- The node state that ends LOADING, for a bad image (R176). -/
def badNode (strap : BitVec 6) : NodeState := if strap = 0 ∨ strap = 63 then .transit else .fallback

/-- The control address 02-00-00-00-00-nn (R174, R177). -/
def nodeAddress (node : BitVec 6) : Address := 0x020000000000#48 ||| node.setWidth 48

/-- An address whose first byte has its lowest bit set names a group (R174). -/
def isGroup (a : Address) : Bool := a.getLsbD 40

/-- What a good image gives: the draft, with the loader's record of it (R173 to R176). -/
def goodDraft (image : List Byte) (strap : BitVec 6) (l : Loader) : Loader :=
  let sel := (byteAt image 3).toNat
  let profile : BitVec 2 := if sel ≤ 3 then BitVec.ofNat 2 sel else 0
  let flags : BitVec 10 := BitVec.ofNat 10 (fieldAt image 8 2)
  let prof := imageProfile image flags (profileOf profile)
  let node := goodNode (byteAt image 6) strap
  let a := (byteAt image 39).toNat
  let b := (byteAt image 40).toNat
  let c := (byteAt image 41).toNat
  let classMap := placed (classMapEntry image) 42 3 a 8
  let filter := placed (filterTableEntry image) (42 + 3 * a) 14 b 16
  let watch := placed (watchTableEntry image) (42 + 3 * a + 14 * b) 11 c 32
  let timePeriod := clampTo 1 255 (byteAt image 34).toNat
  let ts := (byteAt image 33).toNat
  let timeSource : BitVec 6 × Nat := if ts ≤ 62 then (BitVec.ofNat 6 ts, 0) else (0, 1)
  let stored : Address := BitVec.ofNat 48 (fieldAt image 25 6)
  let clamps := prof.2 + timePeriod.2 + timeSource.2 + clampsOf classMap + clampsOf filter + clampsOf watch
  { l with
    profile := profile
    overrides := flags
    clampCount := min 255 clamps
    warnings := { l.warnings with
      badProfile := decide (3 < sel)
      clamped := decide (0 < clamps)
      extraEntries := decide (8 < a ∨ 16 < b ∨ 32 < c)
      nodeStrapped := node.2.2
      badAddress := isGroup stored }
    draft := some {
      settings := {
        nodeNumber := node.1
        profile := prof.1
        originTag := BitVec.ofNat 32 (fieldAt image 21 4)
        control := if isGroup stored then nodeAddress node.1 else stored
        controlType := BitVec.ofNat 16 (fieldAt image 31 2)
        timeSource := timeSource.1
        timePeriod := timePeriod.1
        hopAllowance := byteAt image 35
        reportPeriod := (byteAt image 36).toNat
        alarmMask := BitVec.ofNat 9 (fieldAt image 37 2)
        autoRoll := (byteAt image 7).getLsbD 0
        classMap := classMap.map Prod.fst
        filterPass := (byteAt image 7).getLsbD 1
        filter := filter.map Prod.fst }
      watch := watch.map Prod.fst
      next := node.2.1 } }

/-- What a bad image gives: the fallback configuration set (R176, R177). -/
def badDraft (strap : BitVec 6) (l : Loader) : Loader :=
  { l with draft := some {
      settings := { nodeNumber := strap, originTag := strap.setWidth 32, control := nodeAddress strap }
      watch := []
      next := badNode strap } }

/-! ## The end of LOADING (R179) -/

/-- A watch slot placed from the image; a required one starts its deadline at entry to RUNNING (R108, R118). -/
def placedSlot (c : Clock) (running : Bool) (w : WatchConfig) : Slot :=
  { inUse := true
    config := w
    deadline := if running && w.required then some (c.timer (w.allowN * (w.interval.toNat * 10))) else none }

/-- The watch table of a run: placed slots 0 upward, the rest unused (R108, R175). -/
def watchTable (c : Clock) (running : Bool) (watch : List WatchConfig) : Vector Slot 32 :=
  Vector.ofFn fun i : Fin 32 =>
    match watch[i.val]? with
    | some w => placedSlot c running w
    | none => {}

/-- The report period timer at the entry to RUNNING or FALLBACK (R186): none when the period is 0. -/
def reportPeriodTimer (s : State) : Option Timer :=
  if s.cfg.reportPeriod = 0 then none else some (s.clock.timer (s.cfg.reportPeriod * 10000))

/-- The blocks a ring member starts at the end of LOADING: report period, first check period, and in RUNNING at the
time source the first TIME frame (R130, R141, R179, R186). R179 names the CHECK and the TIME frame without an order, and
R94 allows either; that the CHECK frame goes first is the model's choice (log 38). -/
def startMember (s : State) : State :=
  let s : State := { s with report := { s.report with period := reportPeriodTimer s } }
  let s := beginPeriod (some (s.clock.timer s.checkPeriod)) s
  if s.loader.nodeState = .running ∧ s.isTimeSource = true then
    sendTime { s with time := { s.time with period := some (s.clock.timer s.timePeriod) } }
  else s

/-- The configuration set and the node state are fixed, and the watch table is placed (R175, R179). -/
def fixConfiguration (d : Draft) (s : State) : State :=
  { s with
    loader := { s.loader with
      nodeState := d.next, config := some d.settings, draft := none, phase := .idle, pollTimer := none }
    slots := watchTable s.clock (d.next == .running) d.watch }

/-- The end of LOADING (R179): the configuration set and the node state are fixed, the node state item is noted, and
a ring member starts its blocks. -/
def endLoading (s : State) : State :=
  match s.loader.draft with
  | none => s
  | some d =>
    let s := note .nodeState (fixConfiguration d s)
    if s.member then startMember s else s

/-! ## The image read (R171, R176) -/

/-- The image read is over: a node bound for TRANSIT ends LOADING, any other goes on to the epoch (R178). -/
def imageDecided (l : Loader) (s : State) : State :=
  let s : State := { s with loader := l }
  match l.draft with
  | none => s
  | some d => if d.next = .transit then endLoading s else beginTransaction (.epochRead 0) s

/-- The operations of an attempt (R171): cut where it failed; or the header read, its last byte not acknowledged when it
fails its checks; or the image read to its last byte, which is not acknowledged. -/
def imageOps : ImageRead → List BusOp
  | .failed f => cutAt f (readAddressing 0x00 0x00)
  | .bytes given =>
    let header := readBytes given 8
    readAddressing 0x00 0x00 ++ match headerFault header with
      | some _ => [.read 8 false, .stop]
      | none => [.read 8 true, .read (imageLength header - 8) false, .stop]

/-- The end of an attempt that gave this result and whose transaction made these operations (R171). -/
def endAttempt (r : ImageStatus × List Byte) (ops : List BusOp) (s : State) : State :=
  let l := { s.loader with attempts := s.loader.attempts + 1, imageStatus := r.1, bus := ops }
  if r.1 = .good then imageDecided (goodDraft r.2 l.strap l) s
  else if l.attempts < 3 then beginTransaction .image { s with loader := l }
  else imageDecided (badDraft l.strap l) s

/-- The loader is in this phase of LOADING. -/
def State.loadingIn (s : State) (ph : LoadPhase) : Bool :=
  s.loader.nodeState == .loading && s.loader.phase == ph

/-- IMAGE_READ_ATTEMPT (R171). -/
def execImageReadAttempt (read : ImageRead) (s : State) : Host.Outcome State Fault Refusal :=
  finish (if s.loadingIn .image then endAttempt (attemptResult read) (imageOps read) s else s)

/-! ## The epoch write-back (R178) -/

/-- The stored byte is fixed, and with it the own epoch; the write begins (R178, steps 2 and 3). -/
def fixEpoch (stored : Byte) (s : State) : State :=
  beginTransaction .epochWrite
    { s with loader := { s.loader with storedEpoch := stored, ownEpoch := (stored + 1).setWidth 4 } }

/-- The operations of an epoch read attempt: cut where it failed, or one byte read and not acknowledged (R178,
step 1). -/
def epochReadOps : EpochRead → List BusOp
  | .failed f => cutAt f (readAddressing 0x07 0xFF)
  | .byte _ => readAddressing 0x07 0xFF ++ [.read 1 false, .stop]

/-- The end of an epoch read attempt, after `failed` failed ones (R178, step 1). -/
def endEpochRead (failed : Nat) (read : EpochRead) (s : State) : State :=
  let s := endTransaction (epochReadOps read) s
  match read with
  | .byte b => fixEpoch b s
  | .failed _ =>
    if failed + 1 < 3 then beginTransaction (.epochRead (failed + 1)) s
    else fixEpoch 15 { s with loader := { s.loader with warnings := { s.loader.warnings with epochRead := true } } }

/-- EPOCH_READ_ATTEMPT (R178). -/
def execEpochReadAttempt (read : EpochRead) (s : State) : Host.Outcome State Fault Refusal :=
  finish <|
    match s.loader.nodeState, s.loader.phase with
    | .loading, .epochRead failed => endEpochRead failed read s
    | _, _ => s

/-- EPOCH-WRITE is raised and LOADING ends (R178, R179). -/
def epochWriteFailed (s : State) : State :=
  endLoading { s with loader := { s.loader with warnings := { s.loader.warnings with epochWrite := true } } }

/-- The completion polling lasts 10 ms at most (R178). -/
def pollLength : Nat := 1000

/-- The end of the epoch write: polling begins, or the write has failed, which ends it at that point (R178, steps 3
and 4). -/
def endEpochWrite (failure : Option BusFailure) (s : State) : State :=
  let ops := epochWriteOps s.loader.ownEpoch
  match failure with
  | none =>
    beginTransaction .epochPoll (endTransaction (ops ++ [.stop])
      { s with loader := { s.loader with pollTimer := some (s.clock.timer pollLength) } })
  | some f => epochWriteFailed (endTransaction (cutAt f ops) s)

/-- EPOCH_WRITE (R178). -/
def execEpochWrite (failure : Option BusFailure) (s : State) : Host.Outcome State Fault Refusal :=
  finish (if s.loadingIn .epochWrite then endEpochWrite failure s else s)

/-- EPOCH_POLL (R178): an acknowledged poll ends the write-back and with it LOADING; the next poll follows one that is
not acknowledged. A poll that meets a held SDA, of which R178 says nothing, is told as one that is not acknowledged, and
recorded as one: the model's choice (log 26). -/
def execEpochPoll (acked : Bool) (s : State) : Host.Outcome State Fault Refusal :=
  finish <|
    if s.loadingIn .epochPoll then
      let s := endTransaction pollOps s
      if acked then endLoading s else beginTransaction .epochPoll s
    else s

/-- EPOCH_POLL_TIMEOUT (R178). -/
def execEpochPollTimeout (s : State) : Host.Outcome State Fault Refusal :=
  finish (if s.loadingIn .epochPoll && s.clock.due s.loader.pollTimer then epochWriteFailed (endTransaction [] s) else s)

end Sys2Proof.Machine
end

