-- ==== Sys2Proof/Machine/Dispatch.lean ====
section
/-! DEFINITION. The dispatch of commands to their meanings: one arm for each constructor of `Instr`. -/

namespace Sys2Proof.Machine

/-- The effect of a command on everything but the queue of commands. -/
def exec (i : Instr) (s : State) : Host.Outcome State Fault Refusal :=
  match i with
  | .powerOn rst linkEast linkWest linkTap straps => Sys2Proof.Machine.execPowerOn rst linkEast linkWest linkTap straps s
  | .rstFall => Sys2Proof.Machine.execRstFall s
  | .rstRise straps => Sys2Proof.Machine.execRstRise straps s
  | .linkFall p => Sys2Proof.Machine.execLinkFall p s
  | .linkRise p => Sys2Proof.Machine.execLinkRise p s
  | .qualificationExpiry p => Sys2Proof.Machine.execQualificationExpiry p s
  | .scanWindowEnd p => Sys2Proof.Machine.execScanWindowEnd p s
  | .frameStart p => Sys2Proof.Machine.execFrameStart p s
  | .giant p => Sys2Proof.Machine.execGiant p s
  | .frameEnd p bytes steps => Sys2Proof.Machine.execFrameEnd p bytes steps s
  | .ringFilter p => Sys2Proof.Machine.execRingFilter p s
  | .peerRoll p => Sys2Proof.Machine.execPeerRoll p s
  | .ownRoll p => Sys2Proof.Machine.execOwnRoll p s
  | .rollTimeoutExpiry => Sys2Proof.Machine.execRollTimeoutExpiry s
  | .transmitterFree p => Sys2Proof.Machine.execTransmitterFree p s
  | .transmissionComplete p => Sys2Proof.Machine.execTransmissionComplete p s
  | .repeaterTxComplete out => Sys2Proof.Machine.execRepeaterTxComplete out s
  | .clashHoldExpiry => Sys2Proof.Machine.execClashHoldExpiry s
  | .silenceExpiry node => Sys2Proof.Machine.execSilenceExpiry node s
  | .streamTimerExpiry slot => Sys2Proof.Machine.execStreamTimerExpiry slot s
  | .laneTimerExpiry slot lane => Sys2Proof.Machine.execLaneTimerExpiry slot lane s
  | .startDeadlineExpiry slot => Sys2Proof.Machine.execStartDeadlineExpiry slot s
  | .checkPeriodExpiry => Sys2Proof.Machine.execCheckPeriodExpiry s
  | .timePeriodExpiry => Sys2Proof.Machine.execTimePeriodExpiry s
  | .nodeCommand => Sys2Proof.Machine.execNodeCommand s
  | .report => Sys2Proof.Machine.execReport s
  | .roll => Sys2Proof.Machine.execRoll s
  | .haltRoll => Sys2Proof.Machine.execHaltRoll s
  | .zero => Sys2Proof.Machine.execZero s
  | .restart => Sys2Proof.Machine.execRestart s
  | .badCommand => Sys2Proof.Machine.execBadCommand s
  | .reportHoldExpiry => Sys2Proof.Machine.execReportHoldExpiry s
  | .reportPeriodExpiry => Sys2Proof.Machine.execReportPeriodExpiry s
  | .imageReadAttempt read => Sys2Proof.Machine.execImageReadAttempt read s
  | .epochReadAttempt read => Sys2Proof.Machine.execEpochReadAttempt read s
  | .epochWrite failure => Sys2Proof.Machine.execEpochWrite failure s
  | .epochPoll acked => Sys2Proof.Machine.execEpochPoll acked s
  | .epochPollTimeout => Sys2Proof.Machine.execEpochPollTimeout s
  | .repeaterTransmitterFree out => Sys2Proof.Machine.execRepeaterTransmitterFree out s

end Sys2Proof.Machine
end

