-- ==== Sys2Proof/Safety.lean ====
section
/-! DEFINITION. What a safe state is: the laws of the device, each named after the rule that states it. A run is safe
when every state of it keeps them; the statements of Certificates say that every step does. -/

namespace Sys2Proof.Machine

/-! ## Starts -/

/-- Every block holds its value after a start (R17, R33, R56, R84, R106, R127, R139, R140, R146, R166, R167, R180): the
ports are DOWN with qualification begun where the link input is high, and no configuration set exists. -/
def State.Started (s : State) : Prop :=
  s.clock = {} ∧
  (∀ p : Port, s.port p = { qual := if s.pins.links.get p then some ⟨0, 2000⟩ else none }) ∧
  s.handed = ⟨[], []⟩ ∧ s.rollIn = [] ∧ s.commandIn = [] ∧ s.tagger = {} ∧ s.filter = {} ∧
  s.sources = Vector.replicate 62 {} ∧ s.pool = {} ∧ s.egress = ⟨{}, {}, {}⟩ ∧ s.repeater = ⟨{}, {}⟩ ∧
  s.slots = Vector.replicate 32 {} ∧ s.check = {} ∧ s.time = {} ∧ s.roll = {} ∧ s.report = {} ∧
  s.loader.config = none ∧ s.loader.draft = none ∧ s.loader.attempts = 0 ∧ s.loader.warnings = {} ∧
  s.loader.clampCount = 0 ∧ s.loader.ownEpoch = 0 ∧ s.loader.pollTimer = none

/-! ## Chapter 1: ports -/

/-- A DOWN port is quiet (R3, R10, R15, R102): its receiver is IDLE, its window stopped and cleared, its indications
clear, its queues empty and its transmitter free. A port that is not DOWN has its scan window running and its
qualification timer cleared (R2, R12). -/
def State.PortLaw (s : State) : Prop :=
  ∀ p : Port,
    (s.isDown p = true →
      (s.port p).rx = .idle ∧ (s.port p).window = none ∧ (s.port p).errors = 0 ∧ (s.port p).good = 0 ∧
      (s.port p).flags = {} ∧ (s.port p).ind = {} ∧
      (s.eg p).urgent = [] ∧ (s.eg p).stream = [] ∧ (s.eg p).bulk = [] ∧ (s.eg p).tx = .free) ∧
    (s.isDown p = false → (s.port p).window.isSome = true ∧ (s.port p).qual = none)

/-- The window counts never pass 65535 (R12). -/
def State.WindowLaw (s : State) : Prop := ∀ p : Port, (s.port p).errors ≤ 65535 ∧ (s.port p).good ≤ 65535

/-! ## Chapter 4: source records -/

/-- The law of a source record (R57, R67, R72): an EMPTY record holds the cleared values; a LIVE one has a span of 1 to
64, a mark at position 0, no mark at or beyond its span, a stale run of 0 to 7, streaks of at most 255 and its silence
timer running. -/
def SourceRecord.Law (r : SourceRecord) : Prop :=
  (r.live = false → r = {}) ∧
  (r.live = true →
    1 ≤ r.span ∧ r.span ≤ 64 ∧ (r.bit .e 0 = true ∨ r.bit .w 0 = true) ∧
    (∀ x k, r.span ≤ k → r.bit x k = false) ∧
    r.staleRun ≤ 7 ∧ r.westMiss ≤ 255 ∧ r.eastMiss ≤ 255 ∧ r.silence.isSome = true)

/-- Every record of the source table keeps its law. -/
def State.SourceLaw (s : State) : Prop := ∀ r ∈ s.sources.toList, r.Law

/-- Number `n` of a source has been taken, and the record's top stands `a` numbers beyond it (R80): while it is in the
window one of its bits is set, and the top has not yet advanced 32769 beyond it. -/
def SourceRecord.Taken (r : SourceRecord) (n : Seq) (a : Nat) : Prop :=
  r.live = true ∧ a ≤ 32768 ∧ r.top = n + BitVec.ofNat 16 a ∧
    (a < 64 → r.bit .e a = true ∨ r.bit .w a = true)

/-! ## Chapter 5: pool and queues -/

/-- The pool's canonical form, and the low-water mark at or below the free count (R87, R88). -/
def State.PoolLaw (s : State) : Prop := s.pool.wf = true ∧ s.pool.low ≤ s.pool.free

/-- How many holds a receiver has on buffer `i`. -/
def Receiver.holds (i : Nat) : Receiver → Nat
  | .storing b => if b = i then 1 else 0
  | _ => 0

/-- How many holds a transmitter has on buffer `i`. -/
def Transmitter.holds (i : Nat) : Transmitter → Nat
  | .sending b _ _ _ => if b = i then 1 else 0
  | _ => 0

/-- How many holds the entries of a queue have on buffer `i`. -/
def entryHolds (i : Nat) (q : List Entry) : Nat := q.countP fun e => e.buf == i

/-- How many holds an egress scheduler has on buffer `i`: its entries and its transmission (R87). -/
def Egress.holds (i : Nat) (e : Egress) : Nat :=
  entryHolds i e.urgent + entryHolds i e.stream + entryHolds i e.bulk + e.tx.holds i

/-- The holds on buffer `i` between commands (R87): receptions, the frames handed over and not yet taken by the ring
filter, the roll unit or the report unit, queue entries and transmissions. -/
def State.holds (s : State) (i : Nat) : Nat :=
  (s.port .east).rx.holds i + (s.port .west).rx.holds i + (s.port .tap).rx.holds i +
  s.handed.east.countP (fun h => h.buf == i) + s.handed.west.countP (fun h => h.buf == i) +
  s.rollIn.countP (fun r => r.buf == i) + s.commandIn.countP (fun b => b == i) +
  (s.eg .east).holds i + (s.eg .west).holds i + (s.eg .tap).holds i

/-- The pool's law (R87): the buffers in use have numbers below 256, each once, and a reference count of at least 1
equal to the holds on them; a free buffer is named by no hold. -/
def State.HoldsLaw (s : State) : Prop :=
  s.pool.wf = true ∧ ∀ i, ((s.pool.get? i).map Buffer.refs).getD 0 = s.holds i

/-- The queues' law (R92): no class queue holds more entries than its depth. -/
def State.QueueLaw (s : State) : Prop := ∀ (p : Port) (c : Class), ((s.eg p).queue c).length ≤ c.depth

/-! ## Chapter 6: watch slots -/

/-- The law of a slot lane (R109, R117): DOWN holds M with the timer stopped, AWAIT and UP hold at most M − 1. -/
def SlotLane.Law (allowM : Nat) (l : SlotLane) : Prop :=
  (l.status = .down → l.miss = allowM ∧ l.timer = none) ∧ (l.status ≠ .down → l.miss + 1 ≤ allowM)

/-- The law of a watch slot (R108, R109, R116, R119, R121): an unused slot keeps its start values; in an in-use one the
miss counts go together with the statuses, the stream timer runs in LIVE and LATE alone, the start deadline in AWAIT
alone, and with the stream LOST both lanes are DOWN. -/
def Slot.Law (w : Slot) : Prop :=
  (w.inUse = false → w = {}) ∧
  (w.inUse = true →
    1 ≤ w.config.allowN ∧ 1 ≤ w.config.allowM ∧
    (w.status = .await → w.miss = 0 ∧ w.timer = none) ∧
    (w.status = .live → w.miss = 0 ∧ w.timer.isSome = true) ∧
    (w.status = .late → 1 ≤ w.miss ∧ w.miss + 1 ≤ w.config.allowN ∧ w.timer.isSome = true) ∧
    (w.status = .lost → w.miss = w.config.allowN ∧ w.timer = none ∧
      w.lanes.e.status = .down ∧ w.lanes.w.status = .down) ∧
    (w.deadline.isSome = true → w.status = .await) ∧
    w.lanes.e.Law w.config.allowM ∧ w.lanes.w.Law w.config.allowM)

/-- Every watch slot keeps its law, and so will those the loader is about to place. -/
def State.WatchLaw (s : State) : Prop :=
  (∀ w ∈ s.slots.toList, w.Law) ∧
  ∀ d, s.loader.draft = some d → ∀ c ∈ d.watch, 1 ≤ c.allowN ∧ 1 ≤ c.allowM

/-! ## Chapter 7: the ring check unit -/

/-- A lane's state and its miss count go together (R129): BROKEN holds C, AWAIT and CLOSED hold 0 to C − 1. -/
def CheckLane.Law (limit : Nat) (l : CheckLane) : Prop :=
  (l.state = .broken → l.miss = limit) ∧ (l.state ≠ .broken → l.miss + 1 ≤ limit)

/-- The ring's law (R129, R136, R137): the ring state is the one the lane states give, no lane is CLOSED while a ring
port is DOWN, the miss counts go with the lane states, and outside RUNNING and FALLBACK the unit keeps its start
values. -/
def State.RingLaw (s : State) : Prop :=
  s.check.ring = ringOf s.check.lanes.e.state s.check.lanes.w.state ∧
  (s.check.lanes.e.state = .closed ∨ s.check.lanes.w.state = .closed → s.ringPortDown = false) ∧
  s.check.lanes.e.Law s.cfg.profile.missLimit ∧ s.check.lanes.w.Law s.cfg.profile.missLimit ∧
  (s.member = false → s.check = {}) ∧
  1 ≤ s.cfg.profile.missLimit ∧ (∀ d, s.loader.draft = some d → 1 ≤ d.settings.profile.missLimit)

/-! ## Chapter 8: the roll unit -/

/-- A lane of a round (R148): a list, of at most 62 entries, and the FULL flag are present only for RETURNED and
TURNED. -/
def RollLane.Law (l : RollLane) : Prop :=
  l.entries.length ≤ 62 ∧ (l.result ≠ .returned ∧ l.result ≠ .turned → l.entries = [] ∧ l.full = false)

/-- The roll unit's law (R148, R149, R151, R161): a RUNNING round has its timeout running; in IDLE the timeout is
stopped, the again flag clear and the lanes at their start values. -/
def State.RollLaw (s : State) : Prop :=
  (s.roll.running = true → s.roll.timeout.isSome = true) ∧
  (s.roll.running = false → s.roll.timeout = none ∧ s.roll.again = false ∧ s.roll.lanes = ⟨{}, {}⟩) ∧
  s.roll.lanes.e.Law ∧ s.roll.lanes.w.Law ∧ s.roll.map.lanes.e.Law ∧ s.roll.map.lanes.w.Law

/-! ## Chapter 9: loader and repeater -/

/-- The ranges of R173. -/
def Profile.Law (p : Profile) : Prop :=
  1 ≤ p.checkPeriod ∧ p.checkPeriod ≤ 255 ∧ 1 ≤ p.missLimit ∧ p.missLimit ≤ 15 ∧ 1 ≤ p.aging ∧ p.aging ≤ 255 ∧
  2 ≤ p.streakLimit ∧ p.streakLimit ≤ 255 ∧ 1 ≤ p.rollTimeout ∧ p.rollTimeout ≤ 255 ∧
  1 ≤ p.scanWindow ∧ p.scanWindow ≤ 255 ∧ 1 ≤ p.hopLimit ∧ p.hopLimit ≤ 63 ∧
  p.errorBound ≤ 255 ∧ p.goodFloor ≤ 65535 ∧ p.streamAge ≤ 255

/-- A configuration set within its ranges (R173 to R175): settings, table sizes, time period and time source. -/
def Settings.Law (c : Settings) : Prop :=
  c.profile.Law ∧ c.classMap.length ≤ 8 ∧ c.filter.length ≤ 16 ∧ 1 ≤ c.timePeriod ∧ c.timePeriod ≤ 255 ∧
  c.timeSource ≠ 63 ∧ isGroup c.control = false

/-- A watch slot configuration within its ranges (R174). -/
def WatchConfig.Law (c : WatchConfig) : Prop :=
  c.source ≠ 63 ∧ 1 ≤ c.interval.toNat ∧ 1 ≤ c.allowN ∧ c.allowN ≤ 16 ∧ 1 ≤ c.allowM ∧ c.allowM ≤ 16

/-- What the loader has decided lies within its ranges (R173 to R176): the settings, the watch slots, and a node number
1 to 62 for a node that becomes a ring member. -/
def Draft.Law (d : Draft) : Prop :=
  d.settings.Law ∧ d.watch.length ≤ 32 ∧ (∀ c ∈ d.watch, c.Law) ∧
  (d.next = .transit ∨
    (d.next = .running ∨ d.next = .fallback) ∧ d.settings.nodeNumber ≠ 0 ∧ d.settings.nodeNumber ≠ 63)

/-- The loader's law (R171, R174 to R176, R178): the configuration set and what is decided lie within their ranges; a
ring member has a configuration set with a node number 1 to 62; at most 3 read attempts are made, and at most 3 epoch
reads; the clamp count stops at 255. -/
def State.LoaderLaw (s : State) : Prop :=
  (∀ c, s.loader.config = some c → c.Law) ∧
  (∀ d, s.loader.draft = some d → d.Law) ∧
  (s.member = true → s.node ≠ 0 ∧ s.node ≠ 63) ∧
  s.loader.attempts ≤ 3 ∧ s.loader.clampCount ≤ 255 ∧
  (s.loader.phase = .image → s.loader.attempts ≤ 2) ∧
  (∀ f, s.loader.phase = .epochRead f → f ≤ 2) ∧
  (s.loader.nodeState = .reset → s.loader.attempts = 0)

/-- A port's transmitter is sending this store of the direction that leads out of it. -/
def State.sendsStore (s : State) (out : RingPort) (isFirst : Bool) : Bool :=
  match (s.eg out.port).tx with
  | .repeating f _ _ => f == isFirst
  | _ => false

/-- The repeater's law (R169, R170): in each direction a store is receiving exactly while the receiver of its port
writes into it, and holds a frame exactly while the frame waits in the send order or is being sent; no frame waits
twice, and none that is being sent waits. -/
def State.RepeaterLaw (s : State) : Prop :=
  ∀ p : RingPort,
    (s.dir p).order.Nodup ∧
    ∀ f : Bool,
      ((s.dir p).store f = .receiving ↔ (s.port p.port).rx = .repeating f) ∧
      (((s.dir p).store f).isHolding = true ↔ f ∈ (s.dir p).order ∨ s.sendsStore p.opposite f = true) ∧
      (s.sendsStore p.opposite f = true → f ∉ (s.dir p).order)

/-- Out of the ring (R168, R180): in RESET, LOADING and TRANSIT the lane tagger, ring filter, source table, ring check
unit, time base and roll unit keep their start values; in TRANSIT no command but RESTART is kept, and before it none. -/
def State.OutLaw (s : State) : Prop :=
  s.member = false →
    s.tagger = {} ∧ s.filter = {} ∧ s.sources = Vector.replicate 62 {} ∧ s.check = {} ∧ s.time = {} ∧ s.roll = {} ∧
    s.rollIn = [] ∧ (∀ c ∈ s.report.queue, c.code = 5) ∧
    (s.loader.nodeState ≠ .transit →
      s.report.queue = [] ∧ s.commandIn = [] ∧ ∀ b, (s.port .tap).rx ≠ .storing b)

/-- The configuration set, the node state and all else of the loader stay as the end of LOADING fixed them, until a
start (R179, R180). -/
def State.sameRun (s t : State) : Prop :=
  t.loader = s.loader ∨ t.loader.nodeState = .reset ∨ (t.loader.nodeState = .loading ∧ t.Started)

/-! ## Chapter 10: the report unit -/

/-- The change list's law (R185): no item twice, and at most 16 items. -/
def State.ChangeListLaw (s : State) : Prop := s.report.changes.Nodup ∧ s.report.changes.length ≤ 16

/-- The items a change of the ring check unit notes (R137): each lane whose state it changes, and the ring where it
changes the ring state. -/
def RingCheck.changedItems (a b : RingCheck) : List Item :=
  (if b.lanes.e.state = a.lanes.e.state then [] else [.lane .e]) ++
  (if b.lanes.w.state = a.lanes.w.state then [] else [.lane .w]) ++
  (if b.ring = a.ring then [] else [.ring])

/-- The change list of `r` is that of `s` after these items have been noted, each as R185 says, in some order. -/
def State.Noted (s : State) (items : List Item) (r : ReportUnit) : Prop :=
  ∃ l : List Item, l.Perm items ∧
    let u := l.foldl (fun v i => note i v) s
    r.changes = u.report.changes ∧ r.more = u.report.more

/-- The command queue holds at most 2 commands and the notice list at most 4 notices (R181, R186). -/
def State.ReportQueueLaw (s : State) : Prop := s.report.queue.length ≤ 2 ∧ s.report.notices.length ≤ 4

/-- The lines follow their conditions (R188, R189): the kept conditions and both lines have the values of the present
state, and HEALTHY is asserted only while ALARM is deasserted. -/
def State.LinesLaw (s : State) : Prop :=
  s.report.conditions = s.activeConditions ∧ s.report.alarm = s.alarmLevel ∧ s.report.healthy = s.healthyLevel ∧
  (s.report.healthy = true → s.report.alarm = false)

end Sys2Proof.Machine
end

