-- ==== Sys2Proof/Certificates/Slice0/Obligations.lean ====
section
/-! DEFINITION. The statements for the provers. Most say what a command's effect is: `exec c s = .next (settle t)`,
where `t` is the state after the command's own effect and `settle` is the end that every command has (stated in
`CommandsEndWithTheLines`, `ReportTimersSendOneReport` and `EndOfRestartReplyStartsTheNode`). -/

open Sys2Proof Sys2Proof.Machine

/-! ## The block -/

/-- A step takes the command at the front of the queue and runs it on the state with the queue's rest. -/
def Obligations.StepTakesTheFrontCommand : Prop :=
  ∀ (c : Instr) (rest : List Instr) (s : State), s.pending = c :: rest → step s = exec c { s with pending := rest }

/-- On an empty queue a step is one REFCLK cycle (log 1), and n cycles from a start give the node time n / 50 µs and the
timer-unit count n / 500, both modulo 2^32 (R139, R140). -/
def Obligations.EmptyQueueLetsTimePass : Prop :=
  (∀ s : State, s.pending = [] → step s = .next s.tick) ∧
  ∀ (n : Nat) (s : State), s.clock = {} →
    Nat.repeat State.tick n s = { s with clock := ⟨n, BitVec.ofNat 32 (n / 50), BitVec.ofNat 32 (n / 500)⟩ }

/-- Every command completes, on every state, and leaves the commands that wait. That no rule stops the block is read by
inference (log 23); that a command whose event cannot be answers a next state all the same (log 3), and that the queue
of commands survives a start (log 22), are the model's choice. -/
def Obligations.EveryCommandCompletes : Prop :=
  ∀ (c : Instr) (s : State), ∃ t, exec c s = .next t ∧ t.pending = s.pending

/-- The laws of the device hold right after reset. The pin levels of the reset state (log 6), the values after a start
that no rule states (log 19) and the count of REFCLK cycles (log 1) are the model's choice. -/
def Obligations.LawsHoldAtReset : Prop :=
  State.reset.Started ∧ State.reset.PortLaw ∧ State.reset.WindowLaw ∧ State.reset.SourceLaw ∧ State.reset.PoolLaw ∧
  State.reset.HoldsLaw ∧ State.reset.QueueLaw ∧ State.reset.WatchLaw ∧ State.reset.RingLaw ∧ State.reset.RollLaw ∧
  State.reset.LoaderLaw ∧ State.reset.RepeaterLaw ∧ State.reset.OutLaw ∧ State.reset.ChangeListLaw ∧
  State.reset.ReportQueueLaw ∧ State.reset.LinesLaw

/-! ## Starts (R167) -/

/-- POWER_ON is a start of cause POWER: every block takes its value after a start, and with RST high the node enters
LOADING with the straps given and begins its first image read; with RST low it stays in RESET. RST_FALL is a start of
cause LINE, and the node stays in RESET while RST is low; RST_RISE ends RESET, and elsewhere tells the levels of the
pins alone. That the queue, the pin levels and the owed stop condition survive a start is the model's choice (log 22),
and so are the values after a start that no rule states (log 19), the count of REFCLK cycles (log 1), the record of I2C
operations (log 26) and that RST_RISE acts by the node state (log 30). -/
def Obligations.StartsTakeEveryBlockBack : Prop :=
  (∀ (rst e w tap : Bool) (straps : BitVec 6) (s : State), ∃ t, exec (.powerOn rst e w tap straps) s = .next t ∧
    t.Started ∧ t.pins = ⟨rst, ⟨e, w, tap⟩, straps⟩ ∧ t.pending = s.pending ∧ t.loader.cause = .power ∧
    t.loader.bus = [] ∧
    (rst = false → t.loader.nodeState = .reset) ∧
    (rst = true → t.loader.nodeState = .loading ∧ t.loader.strap = straps ∧ t.loader.phase = .image)) ∧
  (∀ s : State, ∃ t, exec .rstFall s = .next t ∧ t.Started ∧ t.pins = { s.pins with rst := false } ∧
    t.pending = s.pending ∧ t.loader.nodeState = .reset ∧ t.loader.cause = .line ∧
    t.loader.stopFirst = (s.loader.phase != .idle || s.loader.stopFirst)) ∧
  (∀ (straps : BitVec 6) (s : State), s.loader.nodeState = .reset →
    exec (.rstRise straps) s = .next (settle { s with
      pins := { s.pins with rst := true, straps := straps }
      loader := { s.loader with
        nodeState := .loading, strap := straps, phase := .image, stopFirst := false
        bus := if s.loader.stopFirst then [.stop] else [] } })) ∧
  (∀ (straps : BitVec 6) (s : State), s.loader.nodeState ≠ .reset →
    exec (.rstRise straps) s = .next (settle { s with pins := { s.pins with rst := true, straps := straps } }))

/-- When the LOCAL entry of a RESTART command's reply ends, a start of cause COMMAND is taken and the node enters LOADING
(R97, R102, R167, R182): at the completion of its transmission; at the fall of the tap port that flushes it from the
BULK queue or cuts its transmission; and at once where the reply's entry is refused by a DOWN tap port or dropped by a
full BULK queue. The straps are read as last told (log 5), the start is the last thing of the event (log 28), the pins
and the queue of commands survive it (log 22), and of the values after a start some are the model's choice (logs 1,
19). -/
def Obligations.EndOfRestartReplyStartsTheNode : Prop :=
  let started (s t : State) (pins : Pins) : Prop :=
    t.Started ∧ t.pins = pins ∧ t.pending = s.pending ∧
      t.loader.nodeState = .loading ∧ t.loader.cause = .command ∧ t.loader.strap = s.pins.straps
  (∀ (buf doneAt : Nat) (bytes : List Byte) (s : State),
    (s.eg .tap).tx = .sending buf (.localFrame true) bytes doneAt → doneAt ≤ s.clock.refclk →
    ∃ t, exec (.transmissionComplete .tap) s = .next t ∧ started s t s.pins) ∧
  (∀ s : State, s.isDown .tap = false →
    (∃ x ∈ (s.eg .tap).bulk, x.mark = .localFrame true) ∨
      (∃ buf bytes doneAt, (s.eg .tap).tx = .sending buf (.localFrame true) bytes doneAt) →
    ∃ t, exec (.linkFall .tap) s = .next t ∧
      started s t { s.pins with links := s.pins.links.set .tap false }) ∧
  (∀ (k : Command) (rest : List Command) (s : State), s.report.queue = k :: rest → k.code = 5 → k.result = none →
    k.replied = false → 49 ≤ s.free → s.isDown .tap = true ∨ 96 ≤ (s.eg .tap).bulk.length →
    ∃ t, exec .restart s = .next t ∧ started s t s.pins)

/-! ## Chapter 1: ports, links and reception -/

/-- LINK_FALL at a port that is not DOWN (R1, R3, R10, R102): the port enters DOWN, quiet and uncounted but for LINK-
DOWN and a cut reception, and its egress scheduler is emptied with FLUSHED raised for each entry and the transmission;
the other ports and the units that the fall does not concern are unchanged. The window flags are cleared with the rest
(log 18). -/
def Obligations.LinkFallTakesThePortDown : Prop :=
  ∀ (p : Port) (s : State), s.isDown p = false → ∃ t, exec (.linkFall p) s = .next (settle t) ∧
    t.pins = { s.pins with links := s.pins.links.set p false } ∧
    t.port p = { state := .down, counters := { (s.port p).counters with
      linkDown := raise (s.port p).counters.linkDown
      cut := if (s.port p).rx = .idle then (s.port p).counters.cut else raise (s.port p).counters.cut } } ∧
    (∀ q, q ≠ p → t.port q = s.port q) ∧
    t.eg p = { chosen := (s.eg p).chosen, counters := { (s.eg p).counters with
      flushed := raiseBy ((s.eg p).tx.held.length + (s.eg p).urgent.length + (s.eg p).stream.length +
        (s.eg p).bulk.length) (s.eg p).counters.flushed } } ∧
    t.clock = s.clock ∧ t.loader = s.loader ∧ t.handed = s.handed ∧ t.rollIn = s.rollIn ∧ t.commandIn = s.commandIn ∧
    t.tagger = s.tagger ∧ t.filter = s.filter ∧ t.sources = s.sources ∧ t.slots = s.slots ∧ t.time = s.time

/-- LINK_FALL of a ring port of a ring member breaks both lanes, counting those that were not BROKEN, and the ring state
becomes OPEN; the port, each lane whose state changes and a change of the ring state are noted (R16, R137; with auto-roll
a change of the ring state is also a trigger, and `RingChangesStartRounds` says the notes). LINK_FALL of the tap port
leaves the ring check unit as it is (R136). -/
def Obligations.RingPortFallBreaksBothLanes : Prop :=
  (∀ s : State, ∃ t, exec (.linkFall .tap) s = .next (settle t) ∧ t.check = s.check) ∧
  ∀ (p : RingPort) (s : State), s.isDown p.port = false → s.member = true →
    ∃ t, exec (.linkFall p.port) s = .next (settle t) ∧ t.check = { s.check with
      ring := .opened
      lanes := ⟨{ s.check.lanes.e with
          state := .broken, miss := s.cfg.profile.missLimit, returned := false
          breaks := if s.check.lanes.e.state = .broken then s.check.lanes.e.breaks else raise s.check.lanes.e.breaks },
        { s.check.lanes.w with
          state := .broken, miss := s.cfg.profile.missLimit, returned := false
          breaks := if s.check.lanes.w.state = .broken then s.check.lanes.w.breaks
            else raise s.check.lanes.w.breaks }⟩ } ∧
      (s.check.ring = .opened ∨ s.cfg.autoRoll = false →
        s.Noted (.port p.port :: s.check.changedItems t.check) t.report)

/-- LINK_RISE starts the qualification timer of a DOWN port and otherwise tells the level alone; LINK_FALL at a DOWN
port clears the timer (R1, R2). QUALIFICATION_EXPIRY (R2, R16): a DOWN port whose link input is high and whose timer
has run 20 ms becomes UP with its first scan window started, and the port is noted; at any other time nothing changes.
That a command whose event cannot be changes nothing, and that LINK_RISE and LINK_FALL act by the port's state, is the
model's choice (logs 3, 30). -/
def Obligations.QualificationRaisesAPort : Prop :=
  ∀ (p : Port) (s : State),
    (s.isDown p = true →
      exec (.linkRise p) s = .next (settle ({ s with pins := { s.pins with links := s.pins.links.set p true } }.setPort p
        { s.port p with qual := some ⟨s.clock.timerUnits, 2000⟩ })) ∧
      exec (.linkFall p) s = .next (settle ({ s with pins := { s.pins with links := s.pins.links.set p false } }.setPort p
        { s.port p with qual := none }))) ∧
    (s.isDown p = false →
      exec (.linkRise p) s = .next (settle { s with pins := { s.pins with links := s.pins.links.set p true } })) ∧
    (s.isDown p = true → s.pins.links.get p = true → s.clock.due (s.port p).qual = true →
      exec (.qualificationExpiry p) s = .next (settle (note (.port p) (s.setPort p { s.port p with
        state := .up, qual := none, window := some ⟨s.clock.timerUnits, s.windowLength⟩, errors := 0, good := 0
        flags := {}
        counters := { (s.port p).counters with linkUp := raise (s.port p).counters.linkUp } })))) ∧
    (s.isDown p = false ∨ s.pins.links.get p = false ∨ s.clock.due (s.port p).qual = false →
      exec (.qualificationExpiry p) s = .next (settle s))

/-- SCAN_WINDOW_END (R12 to R16): the error count is judged against E, and on a ring port with G not 0 the good-frame
count against G; the event indications take their flags; counts and flags are cleared and the next window starts at
once; and a change of state or indication notes the port. Nothing else changes. -/
def Obligations.WindowEndJudgesThePort : Prop :=
  ∀ (p : Port) (s : State), s.isDown p = false → s.clock.due (s.port p).window = true →
    ∃ v : PortUnit, exec (.scanWindowEnd p) s = .next (settle
        (if v.state = (s.port p).state ∧ v.ind = (s.port p).ind then s.setPort p v
          else note (.port p) (s.setPort p v))) ∧
      (s.errorBound < (s.port p).errors → v.state = .degraded) ∧
      ((s.port p).errors ≤ s.errorBound → v.state = .up) ∧
      v.counters = { (s.port p).counters with degraded :=
        if s.errorBound < (s.port p).errors ∧ (s.port p).state = .up then raise (s.port p).counters.degraded
        else (s.port p).counters.degraded } ∧
      (v.ind.silent = true ↔ p ≠ .tap ∧ s.goodFloor ≠ 0 ∧ (s.port p).good < s.goodFloor) ∧
      v.ind.foreign = (s.port p).flags.foreign ∧ v.ind.crossed = (s.port p).flags.crossed ∧
      v.ind.pool = (s.port p).flags.pool ∧
      v.errors = 0 ∧ v.good = 0 ∧ v.flags = {} ∧ v.rx = (s.port p).rx ∧ v.qual = (s.port p).qual ∧
      v.window = (s.port p).window.map fun w => ⟨w.start + BitVec.ofNat 32 w.length, s.windowLength⟩

/-- FRAME_START (R4, R5, R88, R167, R169). At a receiver that stores, it takes a buffer that was free, with count 1, and
no other buffer changes; with no buffer free the frame is discarded, NO-BUFFER rises and the POOL indication is set. At a
DOWN port, a busy receiver or in RESET nothing changes; in LOADING the tap port discards; and a ring port outside the
ring takes a free repeater store, the first where both are free (log 35), or keeps no frame. -/
def Obligations.FrameStartsTakeTheirStore : Prop :=
  (∀ (p : Port) (s : State), s.isDown p = false → (s.port p).rx = .idle → s.pool.wf = true →
    s.member = true ∨ (s.loader.nodeState = .transit ∧ p = .tap) →
    (0 < s.free → ∃ b q, exec (.frameStart p) s =
        .next (settle ({ s with pool := q }.setPort p { s.port p with rx := .storing b })) ∧
      s.pool.get? b = none ∧ b < 256 ∧ q.get? b = some ⟨1, [], false⟩ ∧ (∀ i, i ≠ b → q.get? i = s.pool.get? i) ∧
      q.wf = true ∧ q.free + 1 = s.free ∧ q.low = min s.pool.low q.free ∧ q.refused = s.pool.refused) ∧
    (s.free = 0 → ∃ t, exec (.frameStart p) s = .next (settle t) ∧ t.pool = s.pool ∧
      t.port p = { s.port p with
        rx := .discarding false
        ind := { (s.port p).ind with pool := true }
        flags := { (s.port p).flags with pool := true }
        counters := { (s.port p).counters with noBuffer := raise (s.port p).counters.noBuffer } })) ∧
  (∀ (p : Port) (s : State), s.isDown p = true ∨ (s.port p).rx ≠ .idle ∨ s.loader.nodeState = .reset →
    exec (.frameStart p) s = .next (settle s)) ∧
  (∀ s : State, s.isDown .tap = false → (s.port .tap).rx = .idle → s.loader.nodeState = .loading →
    exec (.frameStart .tap) s = .next (settle (s.setPort .tap { s.port .tap with rx := .discarding false }))) ∧
  ∀ (p : RingPort) (s : State), s.isDown p.port = false → (s.port p.port).rx = .idle → s.loader.nodeState ≠ .reset →
    s.member = false → ∃ t, exec (.frameStart p.port) s = .next (settle t) ∧ t.pool = s.pool ∧
    ((s.dir p).first = .free → t.dir p = { s.dir p with first := .receiving } ∧ (t.port p.port).rx = .repeating true) ∧
    ((s.dir p).first ≠ .free ∧ (s.dir p).second = .free →
      t.dir p = { s.dir p with second := .receiving } ∧ (t.port p.port).rx = .repeating false) ∧
    ((s.dir p).first ≠ .free ∧ (s.dir p).second ≠ .free →
      t.dir p = s.dir p ∧ (t.port p.port).rx = .unkept false)

/-- A frame that is not INTACT (R5, R6, R8, R169). GIANT marks the frame in progress, frees its buffer or store at once
and goes on without keeping it. At FRAME_END the first test met, of a mark, the length, the part byte and the FCS,
names the one counter raised, whether the frame was stored, discarded or on the repeater path; a buffer's hold ends or
a store is freed, the window's error count rises by 1, to at most 65535, and the receiver is IDLE. A frame discarded
unmarked that ends INTACT counts in the window's good count alone. The clauses for an IDLE receiver (log 3), and that a
frame longer than its port accepts counts as GIANT though unmarked (log 17), are the model's choice. -/
def Obligations.FaultyFramesAreCountedOnce : Prop :=
  ∀ (p : Port) (s : State),
    let u := s.port p
    let kept (f : State → State) (rx : Receiver) (c : Instr) (v : PortUnit) : Prop :=
      u.rx = rx → exec c s = .next (settle ((f s).setPort p v))
    let free (b : Nat) (t : State) : State := { t with pool := t.pool.release b }
    let empty (r : RingPort) (f : Bool) (t : State) : State := t.setDir r ((t.dir r).setStore f .free)
    (u.rx = .idle → exec (.giant p) s = .next (settle s)) ∧
    (∀ b, kept (free b) (.storing b) (.giant p) { u with rx := .discarding true }) ∧
    (∀ g, kept id (.discarding g) (.giant p) { u with rx := .discarding true }) ∧
    (∀ (r : RingPort) (f : Bool), p = r.port →
      kept (empty r f) (.repeating f) (.giant p) { u with rx := .unkept true }) ∧
    (∀ g, kept id (.unkept g) (.giant p) { u with rx := .unkept true }) ∧
    ∀ (bytes : List Byte) (steps : Nat),
      let marked := u.rx = .discarding true ∨ u.rx = .unkept true
      let faulty := bytes.length < 64 ∨ steps % 4 ≠ 0 ∨ fcsOk bytes = false
      let ended : PortUnit := { u with
        rx := .idle
        errors := min 65535 (u.errors + 1)
        counters :=
          if marked ∨ longest p < bytes.length then { u.counters with giant := raise u.counters.giant }
          else if bytes.length < 64 then { u.counters with runt := raise u.counters.runt }
          else if steps % 4 ≠ 0 then { u.counters with align := raise u.counters.align }
          else { u.counters with fcs := raise u.counters.fcs } }
      (u.rx = .idle → exec (.frameEnd p bytes steps) s = .next (settle s)) ∧
      (marked ∨ longest p < bytes.length ∨ faulty →
        (∀ b, kept (free b) (.storing b) (.frameEnd p bytes steps) ended) ∧
        (∀ g, kept id (.discarding g) (.frameEnd p bytes steps) ended) ∧
        (∀ (r : RingPort) (f : Bool), p = r.port →
          kept (empty r f) (.repeating f) (.frameEnd p bytes steps) ended) ∧
        (∀ g, kept id (.unkept g) (.frameEnd p bytes steps) ended)) ∧
      (¬ faulty → bytes.length ≤ longest p →
        kept id (.discarding false) (.frameEnd p bytes steps) { u with rx := .idle, good := min 65535 (u.good + 1) })

/-- FRAME_END of a stored INTACT frame: RX-GOOD and the window's good count rise, the receiver is IDLE, and the buffer
holds the frame's bytes. At a ring port it is handed to the ring filter with its buffer and the node time (R9, R34). At
the tap port a frame to the control address is handed to the report unit, in RUNNING, FALLBACK and TRANSIT; in TRANSIT
any other frame's buffer is released and it takes no number (R22). -/
def Obligations.IntactFramesAreHandedOn : Prop :=
  ∀ (p : Port) (b : Nat) (bytes : List Byte) (steps : Nat) (s : State),
    (s.port p).rx = .storing b → 64 ≤ bytes.length → bytes.length ≤ longest p → steps % 4 = 0 → fcsOk bytes = true →
    let u : PortUnit := { s.port p with
      rx := .idle
      good := min 65535 ((s.port p).good + 1)
      counters := { (s.port p).counters with rxGood := raise (s.port p).counters.rxGood } }
    let q := s.pool.modify b fun x => { x with bytes := bytes, hasFcs := true }
    (∀ r : RingPort, p = r.port → exec (.frameEnd p bytes steps) s =
      .next (settle ({ s with
        pool := q
        handed := s.handed.set r (s.handed.get r ++ [Handed.mk b s.clock.nodeTime]) }.setPort p u))) ∧
    (p = .tap → destination bytes = s.cfg.control →
      exec (.frameEnd p bytes steps) s =
        .next (settle ({ s with pool := q, commandIn := s.commandIn ++ [b] }.setPort p u))) ∧
    (p = .tap → destination bytes ≠ s.cfg.control → s.loader.nodeState = .transit →
      exec (.frameEnd p bytes steps) s = .next (settle ({ s with pool := q.release b }.setPort p u)))

/-! ## Chapter 2: origination and the path trailer -/

/-- FRAME_END of an INTACT, admitted traffic frame at the tap port of a ring member (R26 to R29): the table of R28 by
the states of the two ring ports, each queue with room for the entry. `c` is the frame's class. -/
def Obligations.TapTrafficIsOriginated : Prop :=
  ∀ (b : Nat) (bytes : List Byte) (steps : Nat) (s : State),
    (s.port .tap).rx = .storing b → 64 ≤ bytes.length → bytes.length ≤ 1522 → steps % 4 = 0 → fcsOk bytes = true →
    s.member = true → destination bytes ≠ s.cfg.control →
    let c := classify s.cfg.classMap bytes
    let x : Entry := ⟨b, .originated .data c s.tagger.seq s.loader.ownEpoch s.node, s.clock.timerUnits⟩
    c.threshold ≤ s.free →
    (s.isDown .east = false → ((s.eg .east).queue c).length < c.depth) →
    (s.isDown .west = false → ((s.eg .west).queue c).length < c.depth) →
    ∃ t, exec (.frameEnd .tap bytes steps) s = .next (settle t) ∧
      t.eg .east = (if s.isDown .east then s.eg .east else (s.eg .east).setQueue c ((s.eg .east).queue c ++ [x])) ∧
      t.eg .west = (if s.isDown .west then s.eg .west else (s.eg .west).setQueue c ((s.eg .west).queue c ++ [x])) ∧
      t.eg .tap = s.eg .tap ∧
      t.tagger = (match s.isDown .east, s.isDown .west with
        | false, false => { s.tagger with seq := s.tagger.seq + 1, originated := raise s.tagger.originated }
        | true, true => { s.tagger with isolated := raise s.tagger.isolated }
        | _, _ => { s.tagger with
            seq := s.tagger.seq + 1, originated := raise s.tagger.originated, single := raise s.tagger.single }) ∧
      (s.isDown .east = true → s.isDown .west = true →
        t.pool = (s.pool.modify b fun y => { y with bytes := bytes, hasFcs := true }).release b) ∧
      (t.port .tap).rx = .idle ∧ (t.port .tap).ind = (s.port .tap).ind ∧
      t.port .east = s.port .east ∧ t.port .west = s.port .west ∧
      t.commandIn = s.commandIn ∧ t.sources = s.sources ∧ t.slots = s.slots ∧ t.check = s.check ∧ t.roll = s.roll

/-- The class of a tap frame (R24, R25): that of the first class map entry whose type equals the frame's type field;
without one, by the priority tag; untagged, BULK. -/
def Obligations.TapFramesAreClassified : Prop :=
  ∀ (map : List (BitVec 16 × Machine.Class)) (f : List Byte),
    (∀ (before after : List (BitVec 16 × Machine.Class)) (c : Machine.Class), map = before ++ (typeField f, c) :: after →
      (∀ e ∈ before, e.1 ≠ typeField f) → classify map f = c) ∧
    ((∀ e ∈ map, e.1 ≠ typeField f) →
      (tagged f = false → classify map f = .bulk) ∧
      (tagged f = true → tagPriority f ≤ 3 → classify map f = .bulk) ∧
      (tagged f = true → tagPriority f = 4 → classify map f = .stream) ∧
      (tagged f = true → 5 ≤ tagPriority f → classify map f = .urgent))

/-- A path trailer read back from the wire is the trailer written, every field at every value, and its check agrees
(R20, R21, R192); a roll entry read back from a roll is the entry written (R193). -/
def Obligations.TrailersReadBackAsWritten : Prop :=
  (∀ (r : RollEntry) (before after : List Byte),
    r.encode.length = 4 ∧ rollEntryAt (before ++ r.encode ++ after) before.length = r) ∧
  ∀ t : Trailer, t.encode.length = 6 ∧ Trailer.parse t.encode = t ∧ trailerCheckOk t.encode = true ∧
    ∀ (body : List Byte) (n : Nat),
      (Buffer.mk n (withFcs (body ++ t.encode)) true).trailer = t ∧
      (Buffer.mk n (withFcs (body ++ t.encode)) true).body = body ∧
      (Buffer.mk n (body ++ t.encode) false).trailer = t ∧ fcsOk (withFcs (body ++ t.encode)) = true

/-! ## Chapter 3: the ring filter -/

/-- RING_FILTER on a foreign frame (R35): its check differs, or its source is 0 or 63, or its kind is 4 to 7. FOREIGN
and the port's event are raised, the buffer's hold ends, and no other unit sees the frame. -/
def Obligations.ForeignFramesAreDiscarded : Prop :=
  ∀ (p : RingPort) (h : Handed) (rest : List Handed) (s : State), s.member = true → s.handed.get p = h :: rest →
    trailerCheckOk (s.buffer h.buf).trailerBytes = false ∨ (s.buffer h.buf).trailer.source = 0 ∨
      (s.buffer h.buf).trailer.source = 63 ∨ 4 ≤ (s.buffer h.buf).trailer.kind.toNat →
    ∃ t, exec (.ringFilter p) s = .next (settle t) ∧
      t.handed = s.handed.set p rest ∧ t.pool = s.pool.release h.buf ∧
      (t.filter.counters.get p) = { s.filter.counters.get p with foreign := raise (s.filter.counters.get p).foreign } ∧
      (s.isDown p.port = false → t.port p.port = { s.port p.port with
        ind := { (s.port p.port).ind with foreign := true }
        flags := { (s.port p.port).flags with foreign := true } }) ∧
      (s.isDown p.port = true → t.port p.port = s.port p.port) ∧
      t.egress = s.egress ∧ t.sources = s.sources ∧ t.slots = s.slots ∧ t.rollIn = s.rollIn ∧ t.check = s.check ∧
      t.time = s.time ∧ t.tagger = s.tagger ∧ t.roll = s.roll ∧ t.filter.clash = s.filter.clash

/-- A frame whose class's threshold exceeds the free count (R9, R36, R37, R89): REFUSED and the POOL event at its arrival
port, its buffer's hold ended, and no other unit sees it. RING_FILTER refuses so the ring frames handed over, a crossed
frame counted all the same; FRAME_END refuses so the INTACT traffic frames of a ring member's tap port, which take no
number. -/
def Obligations.RefusedFramesAreReleased : Prop :=
  (∀ (p : RingPort) (h : Handed) (rest : List Handed) (k : Kind) (s : State), s.member = true →
    s.handed.get p = h :: rest → ringKind (s.buffer h.buf) = some k →
    s.free < (if k = .data then classOfField (s.buffer h.buf).trailer.cls else .urgent).threshold →
    ∃ t, exec (.ringFilter p) s = .next (settle t) ∧
      t.handed = s.handed.set p rest ∧ t.pool = s.pool.release h.buf ∧
      (t.port p.port).counters = { (s.port p.port).counters with refused := raise (s.port p.port).counters.refused } ∧
      (s.isDown p.port = false → (t.port p.port).ind.pool = true ∧ (t.port p.port).flags.pool = true) ∧
      (t.filter.counters.get p).crossed =
        (if (s.buffer h.buf).trailer.lane.ownPort = p ∧ ¬ (k = .roll ∧ rollTurned (s.buffer h.buf).body = true) then
          raise (s.filter.counters.get p).crossed else (s.filter.counters.get p).crossed) ∧
      t.egress = s.egress ∧ t.sources = s.sources ∧ t.slots = s.slots ∧ t.rollIn = s.rollIn ∧ t.check = s.check ∧
      t.tagger = s.tagger ∧ t.time = s.time) ∧
  ∀ (b : Nat) (bytes : List Byte) (steps : Nat) (s : State),
    (s.port .tap).rx = .storing b → 64 ≤ bytes.length → bytes.length ≤ 1522 → steps % 4 = 0 → fcsOk bytes = true →
    s.member = true → s.isDown .tap = false → destination bytes ≠ s.cfg.control →
    s.free < (classify s.cfg.classMap bytes).threshold →
    ∃ t, exec (.frameEnd .tap bytes steps) s = .next (settle t) ∧
      t.pool = (s.pool.modify b fun x => { x with bytes := bytes, hasFcs := true }).release b ∧
      t.port .tap = { s.port .tap with
        rx := .idle
        good := min 65535 ((s.port .tap).good + 1)
        ind := { (s.port .tap).ind with pool := true }
        flags := { (s.port .tap).flags with pool := true }
        counters := { (s.port .tap).counters with
          rxGood := raise (s.port .tap).counters.rxGood, refused := raise (s.port .tap).counters.refused } } ∧
      t.tagger = s.tagger ∧ t.egress = s.egress ∧ t.commandIn = s.commandIn ∧ t.sources = s.sources ∧
      t.slots = s.slots ∧ t.check = s.check ∧ t.roll = s.roll

/-- RING_FILTER on an own DATA or TIME frame (R31, R38 to R41): within the own-return window it is a return, removed and
counted at its arrival port; outside it, it is a clash frame, which sets CLASH and starts the 1 s hold. Neither is
delivered, judged or forwarded. CLASH_HOLD_EXPIRY clears the indication, stops the hold and, when the indication was
set, notes the clash item; before the hold's expiry nothing changes, which is the model's choice (log 3). -/
def Obligations.OwnFramesReturnOrClash : Prop :=
  (∀ (p : RingPort) (h : Handed) (rest : List Handed) (k : Kind) (s : State), s.member = true →
    s.handed.get p = h :: rest → ringKind (s.buffer h.buf) = some k → k = .data ∨ k = .time →
    (s.buffer h.buf).trailer.source = s.node →
    (if k = .data then classOfField (s.buffer h.buf).trailer.cls else .urgent).threshold ≤ s.free →
    ∃ t, exec (.ringFilter p) s = .next (settle t) ∧
      t.handed = s.handed.set p rest ∧ t.pool = s.pool.release h.buf ∧
      ((s.tagger.seq - (s.buffer h.buf).trailer.seq - 1).toNat ≤ 1023 →
        (t.filter.counters.get p).returned = raise (s.filter.counters.get p).returned ∧
        t.filter.clash = s.filter.clash ∧ t.filter.hold = s.filter.hold ∧
        t.filter.clashCount = s.filter.clashCount) ∧
      (1024 ≤ (s.tagger.seq - (s.buffer h.buf).trailer.seq - 1).toNat →
        (t.filter.counters.get p).returned = (s.filter.counters.get p).returned ∧
        t.filter.clash = true ∧ t.filter.hold = some ⟨s.clock.timerUnits, 100000⟩ ∧
        t.filter.clashCount = raise s.filter.clashCount) ∧
      t.egress = s.egress ∧ t.sources = s.sources ∧ t.slots = s.slots ∧ t.rollIn = s.rollIn ∧ t.check = s.check ∧
      t.tagger = s.tagger ∧ t.time = s.time) ∧
  ∀ s : State,
    (s.clock.due s.filter.hold = true → s.filter.clash = true →
      exec .clashHoldExpiry s =
        .next (settle (note .clash { s with filter := { s.filter with clash := false, hold := none } }))) ∧
    (s.clock.due s.filter.hold = false → exec .clashHoldExpiry s = .next (settle s))

/-- RING_FILTER on a peer DATA frame (R42 to R44, R50 to R54): its source's record takes the request; a REPEAT or STALE
copy ends there and is released; a FIRST or DUPLICATE copy that is not expired is forwarded out of the opposite port, or
meets a dead end there; and only a FIRST copy goes to the tap, when the delivery filter passes it, where a DOWN tap
port refuses it. EXPIRED, DELIVERED, BLOCKED, FORWARDED and DEAD-END of the arrival port count each of these. Each
queue the copy is meant for has room. -/
def Obligations.PeerDataFollowsItsVerdict : Prop :=
  ∀ (p : RingPort) (h : Handed) (rest : List Handed) (s : State), s.member = true → s.handed.get p = h :: rest →
    let b := s.buffer h.buf
    let c := classOfField b.trailer.cls
    let j := (s.record b.trailer.source.toNat).judge s.cfg.profile.streakLimit b.trailer.seq b.trailer.epoch
      b.trailer.lane h.arrival ⟨s.clock.timerUnits, s.cfg.profile.aging * 1000⟩
    let out := p.opposite.port
    let expired := s.cfg.profile.hopLimit ≤ b.trailer.hops.toNat
    let candidate := ¬ expired ∧ (j.verdict = .first ∨ j.verdict = .duplicate)
    let onward := candidate ∧ s.isDown out = false
    let passed := j.verdict = .first ∧ s.cfg.passes b.body = true
    let k := s.filter.counters.get p
    ringKind b = some .data → b.trailer.source ≠ s.node → c.threshold ≤ s.free →
    ((s.eg out).queue c).length < c.depth → ((s.eg .tap).queue c).length < c.depth →
    ∃ t, exec (.ringFilter p) s = .next (settle t) ∧ t.handed = s.handed.set p rest ∧
      t.sources = s.sources.setIfInBounds (b.trailer.source.toNat - 1) j.src ∧
      (onward → t.eg out = (s.eg out).setQueue c ((s.eg out).queue c ++ [⟨h.buf, .forwarded, s.clock.timerUnits⟩])) ∧
      (¬ onward → t.eg out = s.eg out) ∧
      (passed → s.isDown .tap = false →
        t.eg .tap = (s.eg .tap).setQueue c ((s.eg .tap).queue c ++ [⟨h.buf, .delivered, s.clock.timerUnits⟩])) ∧
      (passed → s.isDown .tap = true → t.eg .tap = { s.eg .tap with
        counters := { (s.eg .tap).counters with flushed := raise (s.eg .tap).counters.flushed } }) ∧
      (¬ passed → t.eg .tap = s.eg .tap) ∧
      t.eg p.port = s.eg p.port ∧
      t.filter.counters.get p = { k with
        crossed := if b.trailer.lane.ownPort = p then raise k.crossed else k.crossed
        expired := if expired then raise k.expired else k.expired
        delivered := if passed then raise k.delivered else k.delivered
        blocked := if j.verdict = .first ∧ s.cfg.passes b.body = false then raise k.blocked else k.blocked
        forwarded := if onward then raise k.forwarded else k.forwarded
        deadEnd := if candidate ∧ s.isDown out = true then raise k.deadEnd else k.deadEnd } ∧
      t.filter.counters.get p.opposite = s.filter.counters.get p.opposite ∧
      (j.verdict = .repeated ∨ j.verdict = .stale → t.pool = s.pool.release h.buf ∧ t.slots = s.slots) ∧
      t.rollIn = s.rollIn ∧ t.check = s.check ∧ t.tagger = s.tagger ∧ t.time = s.time ∧ t.clock = s.clock ∧
      t.filter.clash = s.filter.clash

/-- RING_FILTER on peer CHECK and ROLL frames and on own ROLL frames (R38, R42, R46, R47, R51): a CHECK frame that is not
expired is forwarded with the opposite port not DOWN, else it meets a dead end; a peer ROLL that is not expired and
every own ROLL go to the roll unit with their buffer; an expired ROLL is released. EXPIRED, FORWARDED and DEAD-END of
the arrival port count these. No source record judges them, and none is delivered. -/
def Obligations.ChecksAreForwardedRollsHandedOver : Prop :=
  ∀ (p : RingPort) (h : Handed) (rest : List Handed) (s : State), s.member = true → s.handed.get p = h :: rest →
    let b := s.buffer h.buf
    let out := p.opposite.port
    let peer := b.trailer.source ≠ s.node
    let expired := s.cfg.profile.hopLimit ≤ b.trailer.hops.toNat
    let n := s.filter.counters.get p
    ∀ k, ringKind b = some k → k = .check ∨ k = .roll → (k = .check → peer) →
    ∃ t, exec (.ringFilter p) s = .next (settle t) ∧ t.handed = s.handed.set p rest ∧
      t.sources = s.sources ∧ t.slots = s.slots ∧ t.eg .tap = s.eg .tap ∧ t.eg p.port = s.eg p.port ∧
      t.check = s.check ∧ t.tagger = s.tagger ∧ t.time = s.time ∧
      t.filter.counters.get p = { n with
        crossed := if b.trailer.lane.ownPort = p ∧ ¬ (k = .roll ∧ rollTurned b.body = true) then raise n.crossed
          else n.crossed
        expired := if peer ∧ expired then raise n.expired else n.expired
        forwarded := if k = .check ∧ ¬ expired ∧ s.isDown out = false then raise n.forwarded else n.forwarded
        deadEnd := if k = .check ∧ ¬ expired ∧ s.isDown out = true then raise n.deadEnd else n.deadEnd } ∧
      (k = .check → t.rollIn = s.rollIn ∧
        (¬ expired → s.isDown out = false → (s.eg out).urgent.length < 32 →
          t.eg out = { s.eg out with urgent := (s.eg out).urgent ++ [⟨h.buf, .forwarded, s.clock.timerUnits⟩] }) ∧
        (expired ∨ s.isDown out = true → t.eg out = s.eg out ∧ t.pool = s.pool.release h.buf)) ∧
      (k = .roll → t.eg out = s.eg out ∧
        (¬ peer → t.rollIn = s.rollIn ++ [⟨h.buf, p, true⟩] ∧ t.pool = s.pool) ∧
        (peer → ¬ expired → t.rollIn = s.rollIn ++ [⟨h.buf, p, false⟩] ∧ t.pool = s.pool) ∧
        (peer → expired → t.rollIn = s.rollIn ∧ t.pool = s.pool.release h.buf))

/-- RING_FILTER on a peer TIME frame (R36, R42, R45, R51, R52, R54, R142): its source's record takes the request. A FIRST
copy of the configured time source loads node time with the carried time plus the hops by the hop allowance and records
the correction and the load; any other copy loads nothing. A FIRST or DUPLICATE copy that is not expired is forwarded: it
joins the URGENT queue of the opposite port, whose entry then holds the buffer, or is dropped there at a full queue, or
meets a dead end at a DOWN port. Every other copy, dropped, expired, REPEAT or STALE, is released. CROSSED, EXPIRED,
FORWARDED and DEAD-END of the arrival port count these, and nothing goes to the tap. No timer moves with a load (R143),
of the ports, the clash hold, the check, time, roll and report periods and timeouts, the hold and the watch slots; the
silence timer of the copy's record restarts as with every copy (R68). -/
def Obligations.FirstTimeCopiesLoadNodeTime : Prop :=
  ∀ (p : RingPort) (h : Handed) (rest : List Handed) (s : State), s.member = true → s.handed.get p = h :: rest →
    let b := s.buffer h.buf
    let j := (s.record b.trailer.source.toNat).judge s.cfg.profile.streakLimit b.trailer.seq b.trailer.epoch
      b.trailer.lane h.arrival ⟨s.clock.timerUnits, s.cfg.profile.aging * 1000⟩
    let time := BitVec.ofNat 32 (fieldAt b.body 14 4) +
      BitVec.ofNat 32 (b.trailer.hops.toNat * s.cfg.hopAllowance.toNat)
    let correction := time - s.clock.nodeTime
    let out := p.opposite.port
    let expired := s.cfg.profile.hopLimit ≤ b.trailer.hops.toNat
    let candidate := ¬ expired ∧ (j.verdict = .first ∨ j.verdict = .duplicate)
    let k := s.filter.counters.get p
    ringKind b = some .time → b.trailer.source ≠ s.node →
    ∃ t, exec (.ringFilter p) s = .next (settle t) ∧ t.handed = s.handed.set p rest ∧
      t.sources = s.sources.setIfInBounds (b.trailer.source.toNat - 1) j.src ∧
      t.clock.timerUnits = s.clock.timerUnits ∧ t.clock.refclk = s.clock.refclk ∧
      (j.verdict = .first → b.trailer.source = s.cfg.timeSource →
        t.clock.nodeTime = time ∧ t.time = { s.time with
          lastCorrection := if correction = 0x80000000#32 then 0x80000001#32 else correction
          lastLoad := time
          loads := raise s.time.loads }) ∧
      (j.verdict ≠ .first ∨ b.trailer.source ≠ s.cfg.timeSource → t.clock = s.clock ∧ t.time = s.time) ∧
      (candidate → s.isDown out = false → (s.eg out).urgent.length < 32 →
        t.eg out = { s.eg out with urgent := (s.eg out).urgent ++ [⟨h.buf, .forwarded, s.clock.timerUnits⟩] } ∧
        (s.pool.wf = true → s.pool.get? h.buf = some b → ∀ i, t.pool.get? i = s.pool.get? i)) ∧
      (candidate → s.isDown out = false → 32 ≤ (s.eg out).urgent.length →
        t.eg out = { s.eg out with
          counters := { (s.eg out).counters with urgentDrop := raise (s.eg out).counters.urgentDrop } } ∧
        t.pool = s.pool.release h.buf) ∧
      (¬ candidate ∨ s.isDown out = true → t.eg out = s.eg out ∧ t.pool = s.pool.release h.buf) ∧
      t.filter.counters.get p = { k with
        crossed := if b.trailer.lane.ownPort = p then raise k.crossed else k.crossed
        expired := if expired then raise k.expired else k.expired
        forwarded := if candidate ∧ s.isDown out = false then raise k.forwarded else k.forwarded
        deadEnd := if candidate ∧ s.isDown out = true then raise k.deadEnd else k.deadEnd } ∧
      t.filter.counters.get p.opposite = s.filter.counters.get p.opposite ∧ t.eg p.port = s.eg p.port ∧
      t.eg .tap = s.eg .tap ∧ t.slots = s.slots ∧ t.check = s.check ∧ t.roll = s.roll ∧ t.loader = s.loader ∧
      t.rollIn = s.rollIn ∧ t.tagger = s.tagger ∧ t.filter.clash = s.filter.clash ∧
      t.filter.hold = s.filter.hold ∧ t.report.hold = s.report.hold ∧ t.report.period = s.report.period ∧
      ∀ q, (t.port q).window = (s.port q).window ∧ (t.port q).qual = (s.port q).qual

/-! ## Chapter 4: the source table -/

/-- The two lane copies of one number, taken in either order by a record that holds neither lane's mark for it (R78):
the first taken is FIRST, the second DUPLICATE; the counters rise alike; and both orders leave the same two bits. -/
def Obligations.TwoLaneCopiesInEitherOrder : Prop :=
  ∀ (limit : Nat) (n : Seq) (e : BitVec 4) (x : Lane) (a₁ a₂ : Stamp) (t₁ t₂ : Timer) (r : SourceRecord), r.Law →
    r.live = false ∨ (e = r.epoch ∧ (r.top - n).toNat ≤ 63 ∧ r.bit .e (r.top - n).toNat = false ∧
      r.bit .w (r.top - n).toNat = false) ∨ (e = r.epoch ∧ 1 ≤ (n - r.top).toNat ∧ (n - r.top).toNat ≤ 32767) →
    let j₁ := r.judge limit n e x a₁ t₁
    let j₂ := j₁.src.judge limit n e x.other a₂ t₂
    let i₁ := r.judge limit n e x.other a₁ t₁
    let i₂ := i₁.src.judge limit n e x a₂ t₂
    j₁.verdict = .first ∧ j₂.verdict = .duplicate ∧
    j₂.src.mapE = i₂.src.mapE ∧ j₂.src.mapW = i₂.src.mapW ∧ j₂.src.top = i₂.src.top ∧ j₂.src.span = i₂.src.span ∧
    j₂.src.bit .e (j₂.src.top - n).toNat = true ∧ j₂.src.bit .w (j₂.src.top - n).toNat = true ∧
    (r.live = true →
      j₂.src.counters.duplicates = raise r.counters.duplicates ∧
      (x = .e → j₂.src.counters.firstE = raise r.counters.firstE ∧ j₂.src.counters.firstW = r.counters.firstW) ∧
      (x = .w → j₂.src.counters.firstW = raise r.counters.firstW ∧ j₂.src.counters.firstE = r.counters.firstE))

/-- A copy with the number at top or behind it, in the record's epoch (R63, R65): its bits decide the verdict, its bit
is set unless it was, and top and the streaks stay. -/
def Obligations.CopiesInTheWindowAreJudgedByTheirBits : Prop :=
  ∀ (limit : Nat) (k : Nat) (x : Lane) (a : Stamp) (t : Timer) (r : SourceRecord), r.live = true → r.Law → k ≤ 63 →
    let j := r.judge limit (r.top - BitVec.ofNat 16 k) r.epoch x a t
    (r.bit x k = true → j.verdict = .repeated) ∧
    (r.bit x k = false → r.bit x.other k = true → j.verdict = .duplicate) ∧
    (r.bit x k = false → r.bit x.other k = false → j.verdict = .first) ∧
    (∀ y i, j.src.bit y i = (r.bit y i || (decide (y = x) && decide (i = k)))) ∧
    j.src.span = (if r.bit x k = false ∧ r.bit x.other k = false then max r.span (k + 1) else r.span) ∧
    j.src.top = r.top ∧ j.src.westMiss = r.westMiss ∧ j.src.eastMiss = r.eastMiss ∧ j.src.path = r.path ∧
    j.src.staleRun = 0 ∧ j.src.lastHeard = a ∧ j.src.silence = some t

/-- A copy whose epoch lies 1 to 8 ahead restarts its record around it (R61); one that cannot be placed is STALE and
leaves the window, until the eighth in a row resynchronises the record around itself (R66, R67). -/
def Obligations.RestartsAndResyncs : Prop :=
  ∀ (limit : Nat) (n : Seq) (e : BitVec 4) (x : Lane) (a : Stamp) (t : Timer) (r : SourceRecord), r.live = true →
    let j := r.judge limit n e x a t
    let around := j.src.top = n ∧ j.src.span = 1 ∧ j.src.epoch = e ∧ j.src.staleRun = 0 ∧ j.src.westMiss = 0 ∧
      j.src.eastMiss = 0 ∧ j.src.path = .both ∧ j.src.live = true ∧
      (∀ y i, j.src.bit y i = (decide (y = x) && decide (i = 0)))
    (1 ≤ (e - r.epoch).toNat → (e - r.epoch).toNat ≤ 8 →
      j.verdict = .first ∧ around ∧ j.src.counters.restarts = raise r.counters.restarts) ∧
    (9 ≤ (e - r.epoch).toNat ∨ (e = r.epoch ∧ 64 ≤ (r.top - n).toNat ∧ (r.top - n).toNat ≤ 32768) →
      (r.staleRun ≤ 6 → j.verdict = .stale ∧ j.src.staleRun = r.staleRun + 1 ∧ j.src.top = r.top ∧
        j.src.span = r.span ∧ j.src.mapE = r.mapE ∧ j.src.mapW = r.mapW ∧ j.src.epoch = r.epoch ∧
        j.src.westMiss = r.westMiss ∧ j.src.eastMiss = r.eastMiss ∧ j.src.path = r.path ∧
        j.src.counters.stale = raise r.counters.stale) ∧
      (7 ≤ r.staleRun →
        j.verdict = .first ∧ around ∧ j.src.counters.resyncs = raise r.counters.resyncs ∧
        j.src.counters.stale = r.counters.stale))

/-- An AHEAD copy shifts the window and accounts what leaves it (R64, R70 to R73, R81): its own bit stands at position 0,
and each bit of the new window is the old one `d` positions lower. The leaving positions are taken from the lowest
upward, each by the marks it held: paired, it clears both streaks and takes the path back to BOTH; a single raises its
lane's streak, to at most 255, clears the other, counts, and as the streak reaches the limit sets the path to the
delivering lane; unmarked, it counts as missed. Then missed rises by the gap. A change of the path notes the source. -/
def Obligations.AheadCopiesShiftTheWindow : Prop :=
  ∀ (limit d : Nat) (x : Lane) (a : Stamp) (t : Timer) (r : SourceRecord), r.live = true → 1 ≤ d → d ≤ 32767 →
    let n := r.top + BitVec.ofNat 16 d
    let j := r.judge limit n r.epoch x a t
    let toPath (v : SourceRecord × Bool) (p : SourcePath) : SourceRecord × Bool :=
      ({ v.1 with path := p }, v.2 || v.1.path != p)
    let leave (v : SourceRecord × Bool) (k : Nat) : SourceRecord × Bool :=
      let q := v.1
      match r.bit .e k, r.bit .w k with
      | true, true => toPath ({ q with westMiss := 0, eastMiss := 0 }, v.2) .both
      | true, false =>
        let u : SourceRecord × Bool := ({ q with
          westMiss := min 255 (q.westMiss + 1), eastMiss := 0
          counters := { q.counters with westSingles := raise q.counters.westSingles } }, v.2)
        if q.westMiss + 1 = limit ∧ limit ≤ 255 then toPath u .eastOnly else u
      | false, true =>
        let u : SourceRecord × Bool := ({ q with
          eastMiss := min 255 (q.eastMiss + 1), westMiss := 0
          counters := { q.counters with eastSingles := raise q.counters.eastSingles } }, v.2)
        if q.eastMiss + 1 = limit ∧ limit ≤ 255 then toPath u .westOnly else u
      | false, false => ({ q with counters := { q.counters with missed := raise q.counters.missed } }, v.2)
    let left := (List.range' (64 - d) (r.span - (64 - d))).foldl leave (r, false)
    let k := left.1.counters
    j.verdict = .first ∧ j.src.top = n ∧ j.src.span = min 64 (r.span + d) ∧ j.src.staleRun = 0 ∧
    (∀ y i, i < 64 → j.src.bit y i = ((decide (y = x) && decide (i = 0)) || (decide (d ≤ i) && r.bit y (i - d)))) ∧
    j.src.westMiss = left.1.westMiss ∧ j.src.eastMiss = left.1.eastMiss ∧ j.src.path = left.1.path ∧
    j.noted = left.2 ∧
    j.src.counters = { k with
      missed := raiseBy (d - 64) k.missed
      firstE := if x = .e then raise k.firstE else k.firstE
      firstW := if x = .w then raise k.firstW else k.firstW }

/-- The second law of the source table (R80), over a run of requests: once a copy of number `n` is FIRST, and while the
record is neither restarted nor resynchronised (its restarts and resyncs counters, below their limit, do not rise), a
later copy of `n` is never FIRST again before the top has advanced 32769 or more numbers. `taken` is the run of requests
between the two: seq, epoch, lane, arrival and silence timer of each. -/
def Obligations.NoNumberIsFirstTwice : Prop :=
  ∀ (limit : Nat) (n : Seq) (first last : BitVec 4 × Lane × Stamp × Timer)
    (taken : List (Seq × BitVec 4 × Lane × Stamp × Timer)) (r : SourceRecord), r.Law →
    let start := r.judge limit n first.1 first.2.1 first.2.2.1 first.2.2.2
    let run := taken.foldl (fun (u : SourceRecord × Nat) q =>
      let v := (u.1.judge limit q.1 q.2.1 q.2.2.1 q.2.2.2.1 q.2.2.2.2).src
      (v, u.2 + (v.top - u.1.top).toNat)) (start.src, 0)
    let stop := run.1.judge limit n last.1 last.2.1 last.2.2.1 last.2.2.2
    start.verdict = .first → (start.src.top - n).toNat + run.2 ≤ 32768 →
    stop.src.counters.restarts = start.src.counters.restarts → start.src.counters.restarts ≠ 4294967295 →
    stop.src.counters.resyncs = start.src.counters.resyncs → start.src.counters.resyncs ≠ 4294967295 →
    stop.verdict ≠ .first

/-- Every step keeps the law of the source records (R57, R67, R72). -/
def Obligations.SourceRecordsKeepTheirLaw : Prop :=
  ∀ s t : State, s.SourceLaw → step s = .next t → t.SourceLaw

/-- Every step keeps a taken number taken (R80). Number `n` of a source is taken while the record's top stands `a`
numbers beyond it, at most 32768, and, inside the window, a bit of its position is set. In every state, while the
record stays LIVE without a restart or resync (its restarts and resyncs counters, below their limit, do not rise) and
the top has not advanced 32769 beyond the number, a step leaves it taken; a FIRST verdict takes its number; and a copy
of a taken number is not FIRST. -/
def Obligations.TakenNumbersStayTaken : Prop :=
  let sameRun (r q : SourceRecord) : Prop :=
    q.counters.restarts = r.counters.restarts ∧ r.counters.restarts ≠ 4294967295 ∧
      q.counters.resyncs = r.counters.resyncs ∧ r.counters.resyncs ≠ 4294967295
  (∀ (node a : Nat) (n : Seq) (s t : State), 1 ≤ node → node ≤ 62 → step s = .next t →
    let r := s.record node
    let q := t.record node
    r.Taken n a → q.live = true → sameRun r q → a + (q.top - r.top).toNat ≤ 32768 →
      q.Taken n (a + (q.top - r.top).toNat)) ∧
  ∀ (limit : Nat) (n : Seq) (e : BitVec 4) (x : Lane) (arrival : Stamp) (timer : Timer) (r : SourceRecord),
    let j := r.judge limit n e x arrival timer
    (j.verdict = .first → j.src.Taken n (j.src.top - n).toNat) ∧
    ∀ a, r.Taken n a → sameRun r j.src → j.verdict ≠ .first

/-- SILENCE_EXPIRY (R76, R81): a LIVE record whose silence timer has reached the aging time becomes EMPTY with every
field cleared and is noted; otherwise nothing changes. The last clause is the model's choice (log 3). -/
def Obligations.SilenceEmptiesARecord : Prop :=
  ∀ (node : Nat) (s : State),
    (1 ≤ node → node ≤ 62 → (s.record node).live = true → s.clock.due (s.record node).silence = true →
      exec (.silenceExpiry node) s =
        .next (settle (note (.source node) { s with sources := s.sources.setIfInBounds (node - 1) {} }))) ∧
    ((s.record node).live = false ∨ s.clock.due (s.record node).silence = false →
      exec (.silenceExpiry node) s = .next (settle s))

/-! ## Chapter 5: frame pool, queues and egress -/

/-- Every step keeps the bounds of the device's lists: no class queue holds more entries than its depth (R92), the pool
keeps its form and its low-water mark (R87, R88), the change list holds at most 16 items, none twice (R185), the command
queue at most 2 commands (R181) and the notice list at most 4 notices (R186). What noting an item does (R185): an item on
the list leaves it unchanged; another is dropped with MORE set where the list holds 16, else it joins the tail; in RESET
the list takes none. -/
def Obligations.ListsKeepTheirBounds : Prop :=
  (∀ s t : State, step s = .next t →
    (s.QueueLaw → t.QueueLaw) ∧ (s.PoolLaw → t.PoolLaw) ∧ (s.ChangeListLaw → t.ChangeListLaw) ∧
    (s.ReportQueueLaw → t.ReportQueueLaw)) ∧
  ∀ (i : Item) (s : State),
    (i ∈ s.report.changes → note i s = s) ∧
    (s.loader.nodeState = .reset → note i s = s) ∧
    (s.loader.nodeState ≠ .reset → i ∉ s.report.changes →
      (s.report.changes.length < 16 →
        note i s = { s with report := { s.report with changes := s.report.changes ++ [i] } }) ∧
      (16 ≤ s.report.changes.length → note i s = { s with report := { s.report with more := true } }))

/-- Every step keeps the pool's law (R87): a buffer's reference count is the number of holds on it, and a free buffer is
named by none. -/
def Obligations.ReferenceCountsAreTheHolds : Prop :=
  ∀ s t : State, s.HoldsLaw → step s = .next t → t.HoldsLaw

/-- A request to enqueue (R93): the entry joins the tail and adds its hold on a port that is not DOWN with room in the
queue; a full queue drops it and a DOWN port refuses it, with the queue's or the port's counter raised, and the end of
a RESTART reply's entry then calls for its start (R97, R167). -/
def Obligations.EntriesJoinAtTheTail : Prop :=
  ∀ (p : Port) (c : Machine.Class) (b : Nat) (m : Mark) (s : State),
    let ended (t : State) : State :=
      { t with report := { s.report with restartDue := s.report.restartDue || m == .localFrame true } }
    (s.isDown p = false → ((s.eg p).queue c).length < c.depth →
      enqueue p c b m s =
        { s.setEg p ((s.eg p).setQueue c ((s.eg p).queue c ++ [⟨b, m, s.clock.timerUnits⟩])) with
          pool := s.pool.addHold b }) ∧
    (s.isDown p = false → c.depth ≤ ((s.eg p).queue c).length →
      enqueue p c b m s = ended (s.setEg p { s.eg p with counters := match c with
        | .urgent => { (s.eg p).counters with urgentDrop := raise (s.eg p).counters.urgentDrop }
        | .stream => { (s.eg p).counters with streamDrop := raise (s.eg p).counters.streamDrop }
        | .bulk => { (s.eg p).counters with bulkDrop := raise (s.eg p).counters.bulkDrop } })) ∧
    (s.isDown p = true →
      enqueue p c b m s = ended (s.setEg p { s.eg p with
        counters := { (s.eg p).counters with flushed := raise (s.eg p).counters.flushed } }))

/-- TRANSMITTER_FREE (R95 to R97, R170): with the port not DOWN, the transmitter free and an entry queued, and for the
first choice of the run no repeater frame held for the port, the head of URGENT is sent; without one the STREAM entries
that are too old are aged out, from the head on, and counted, and the first that is not is sent; without one the head of
BULK is. The transmission holds the entry's buffer and sends the bytes that the trailer writer shapes, for 8 + L byte
times. Else nothing starts. One command stands for the choice at every moment (log 9), what counts as the first choice
is read by inference (log 10), and so is that the bytes are fixed as the transmission starts (log 27). -/
def Obligations.TheArbiterChoosesByClass : Prop :=
  ∀ (p : Port) (s : State),
    let g := s.eg p
    let old (e : Entry) : Prop :=
      s.cfg.profile.streamAge ≠ 0 ∧ s.cfg.profile.streamAge * 10 < (s.clock.timerUnits - e.joined).toNat
    let sends (e : Entry) (q : Egress) (u : State) : State := u.setEg p { q with
      chosen := true
      tx := .sending e.buf e.mark (shape p e.mark (u.buffer e.buf) s.clock.nodeTime)
        (s.clock.refclk + 4 * (8 + (shape p e.mark (u.buffer e.buf) s.clock.nodeTime).length)) }
    (s.mayChoose p = true ↔
      s.isDown p = false ∧ (g.tx = .free ∨ ∃ n, g.tx = .gap n ∧ n ≤ s.clock.refclk) ∧
      (g.urgent ≠ [] ∨ g.stream ≠ [] ∨ g.bulk ≠ []) ∧
      (g.chosen = true ∨ ∀ r : RingPort, p = r.port →
        ∀ f bytes, (s.dir r.opposite).store f ≠ .holding bytes)) ∧
    (s.mayChoose p = false → exec (.transmitterFree p) s = .next (settle s)) ∧
    (s.mayChoose p = true →
      (∀ e rest, g.urgent = e :: rest →
        exec (.transmitterFree p) s = .next (settle (sends e { g with urgent := rest } s))) ∧
      (∀ before kept, g.urgent = [] → g.stream = before ++ kept → (∀ e ∈ before, old e) →
        (∀ e rest, kept = e :: rest → ¬ old e) →
        let aged : Egress := { g with
          stream := kept, counters := { g.counters with aged := raiseBy before.length g.counters.aged } }
        let u : State := { s with pool := before.foldl (fun q e => q.release e.buf) s.pool }
        (∀ e rest, kept = e :: rest →
          exec (.transmitterFree p) s = .next (settle (sends e { aged with stream := rest } u))) ∧
        (∀ e rest, kept = [] → g.bulk = e :: rest →
          exec (.transmitterFree p) s = .next (settle (sends e { aged with bulk := rest } u))) ∧
        (kept = [] → g.bulk = [] →
          exec (.transmitterFree p) s = .next (settle (u.setEg p { aged with chosen := true })))))

/-- TRANSMISSION_COMPLETE (R97): once the last byte has been sent, TX-FRAMES rises, the transmission's hold ends, and
the gap of 12 byte times begins; before that nothing changes. The end of a RESTART reply is stated apart. The last
clause is the model's choice (log 3). -/
def Obligations.TransmissionsComplete : Prop :=
  ∀ (p : Port) (buf doneAt : Nat) (m : Mark) (bytes : List Byte) (s : State),
    (s.eg p).tx = .sending buf m bytes doneAt →
    (doneAt ≤ s.clock.refclk → m ≠ .localFrame true →
      exec (.transmissionComplete p) s = .next (settle ({ s with pool := s.pool.release buf }.setEg p { s.eg p with
        tx := .gap (doneAt + 48)
        counters := { (s.eg p).counters with txFrames := raise (s.eg p).counters.txFrames } }))) ∧
    (s.clock.refclk < doneAt → exec (.transmissionComplete p) s = .next (settle s))

/-- The bytes of a ring copy as the next node receives it (R98 to R100): an INTACT frame whose trailer check agrees;
forwarded, the body and trailer as received but for hops plus 1; originated, the frame data with hops 0, spare 0, the
port's lane and the entry's particulars, and node time in a TIME frame's carried time. A delivered frame leaves the tap
port without its trailer, padded to 60 bytes (R101). The node time is that of the transmission's start (log 27). -/
def Obligations.CopiesArriveAsShaped : Prop :=
  ∀ (p : RingPort) (b : Buffer) (now : Stamp),
    (6 ≤ b.data.length →
      let f := shape p.port .forwarded b now
      fcsOk f = true ∧ trailerCheckOk (Buffer.mk 1 f true).trailerBytes = true ∧
      (Buffer.mk 1 f true).body = b.body ∧
      (Buffer.mk 1 f true).trailer = { b.trailer with hops := b.trailer.hops + 1 }) ∧
    (∀ (kind : Kind) (cls : Machine.Class) (seq : Seq) (epoch : BitVec 4) (source : BitVec 6),
      let f := shape p.port (.originated kind cls seq epoch source) b now
      fcsOk f = true ∧ trailerCheckOk (Buffer.mk 1 f true).trailerBytes = true ∧
      (Buffer.mk 1 f true).trailer = ⟨seq, source, 0, epoch, kind.code, p.lane, 0, cls.code⟩ ∧
      (kind ≠ .time → (Buffer.mk 1 f true).body = b.data) ∧
      (kind = .time → 18 ≤ b.data.length →
        (Buffer.mk 1 f true).body.length = b.data.length ∧
        BitVec.ofNat 32 (fieldAt (Buffer.mk 1 f true).body 14 4) = now)) ∧
    (6 ≤ b.data.length → ∃ n, shape .tap .delivered b now = withFcs (b.body ++ zeros n) ∧
      n = 60 - b.body.length)

/-- Every step keeps the ports' law (R2, R3, R10, R15, R102): a DOWN port is quiet, and one that is not has its scan
window running; and no window count passes 65535 (R12). That a DOWN port's window flags are clear too is read by
inference (log 18). -/
def Obligations.DownPortsStayQuiet : Prop :=
  ∀ s t : State, s.PortLaw → s.WindowLaw → step s = .next t → t.PortLaw ∧ t.WindowLaw

/-! ## Chapter 9: the repeater path -/

/-- The repeater path (R169, R170): a frame that ends INTACT in a store is held as it was received and joins the tail of
its direction's send order; with the opposite transmitter free the head of that order, this frame where none waited, is
sent at once (log 11), and with it busy none is. It is lost when the opposite port is DOWN; one that was not kept is
lost, and REPEAT-LOST of its arrival port rises; when its transmission completes its store is freed, REPEATED of its
arrival port rises and the gap begins; and the next frame of the send order starts when the transmitter is free. A ring
port's fall frees the store of the reception it cuts, and drops every frame that waits to leave by that port or is
leaving by it, with REPEAT-LOST of their arrival port raised for each. -/
def Obligations.RepeaterSendsWhatItReceived : Prop :=
  (∀ (p : RingPort) (f : Bool) (bytes : List Byte) (steps : Nat) (s : State),
    (s.port p.port).rx = .repeating f → 64 ≤ bytes.length → bytes.length ≤ 1528 → steps % 4 = 0 → fcsOk bytes = true →
    ∃ t, exec (.frameEnd p.port bytes steps) s = .next (settle t) ∧ (t.port p.port).rx = .idle ∧
      (s.isDown p.opposite.port = true → t.dir p =
        { (s.dir p).setStore f .free with lost := raise (s.dir p).lost } ∧ t.egress = s.egress) ∧
      (s.isDown p.opposite.port = false →
        let out := p.opposite.port
        let held := (s.dir p).setStore f (.holding bytes)
        let free := (s.eg out).tx = .free ∨ ∃ freeAt, (s.eg out).tx = .gap freeAt ∧ freeAt ≤ s.clock.refclk
        let sends (g : Bool) (frame : List Byte) : Egress :=
          { s.eg out with tx := .repeating g frame (s.clock.refclk + 4 * (8 + frame.length)) }
        (∀ q, q ≠ out → t.eg q = s.eg q) ∧ t.dir p.opposite = s.dir p.opposite ∧
        (¬ free → t.dir p = { held with order := (s.dir p).order ++ [f] } ∧ t.eg out = s.eg out) ∧
        (free → (s.dir p).order = [] → t.dir p = held ∧ t.eg out = sends f bytes) ∧
        (free → ∀ g rest frame, (s.dir p).order = g :: rest → g ≠ f → (s.dir p).store g = .holding frame →
          t.dir p = { held with order := rest ++ [f] } ∧ t.eg out = sends g frame))) ∧
  (∀ (p : RingPort) (bytes : List Byte) (steps : Nat) (s : State),
    (s.port p.port).rx = .unkept false → 64 ≤ bytes.length → bytes.length ≤ 1528 → steps % 4 = 0 →
    fcsOk bytes = true →
    exec (.frameEnd p.port bytes steps) s = .next (settle ((s.setDir p
      { s.dir p with lost := raise (s.dir p).lost }).setPort p.port { s.port p.port with
        rx := .idle, good := min 65535 ((s.port p.port).good + 1) }))) ∧
  (∀ (out : RingPort) (f : Bool) (bytes : List Byte) (doneAt : Nat) (s : State),
    (s.eg out.port).tx = .repeating f bytes doneAt → doneAt ≤ s.clock.refclk →
    exec (.repeaterTxComplete out) s = .next (settle ((s.setDir out.opposite
      { (s.dir out.opposite).setStore f .free with repeated := raise (s.dir out.opposite).repeated }).setEg out.port
        { s.eg out.port with tx := .gap (doneAt + 48) }))) ∧
  (∀ (out : RingPort) (f : Bool) (rest : List Bool) (bytes : List Byte) (s : State),
    (s.dir out.opposite).order = f :: rest → (s.dir out.opposite).store f = .holding bytes → s.mayRepeat out = true →
    exec (.repeaterTransmitterFree out) s = .next (settle ((s.setDir out.opposite
      { s.dir out.opposite with order := rest }).setEg out.port
        { s.eg out.port with tx := .repeating f bytes (s.clock.refclk + 4 * (8 + bytes.length)) }))) ∧
  ∀ (out : RingPort) (s : State), s.isDown out.port = false →
    let d := s.dir out.opposite
    let left (x : Store) : Store := match x with
      | .holding _ => .free
      | _ => x
    let held (x : Store) : Nat := match x with
      | .holding _ => 1
      | _ => 0
    ∃ t, exec (.linkFall out.port) s = .next (settle t) ∧
      t.dir out.opposite = { d with
        first := left d.first, second := left d.second, order := []
        lost := raiseBy (held d.first + held d.second) d.lost } ∧
      (∀ f, (s.port out.port).rx = .repeating f → t.dir out = (s.dir out).setStore f .free) ∧
      ((∀ f, (s.port out.port).rx ≠ .repeating f) → t.dir out = s.dir out)

/-- Every step keeps the repeater's law (R169, R170): a store is receiving exactly while its port's receiver writes into
it, and holds a frame exactly while the frame waits or is being sent. -/
def Obligations.RepeaterStoresAreAccountedFor : Prop :=
  ∀ s t : State, s.RepeaterLaw → step s = .next t → t.RepeaterLaw

/-! ## Chapter 6: stream watch -/

/-- The seventh law (R121): no stream miss count of an in-use slot passes N and no lane miss count passes M, for every step
keeps the watch slots' law, in which counts, statuses and timers go together (R109, R116 to R119). -/
def Obligations.MissCountsStayWithinTheirAllowances : Prop :=
  ∀ s t : State, s.WatchLaw → step s = .next t → t.WatchLaw ∧
    ∀ w ∈ t.slots.toList, w.inUse = true →
      w.miss ≤ w.config.allowN ∧ w.lanes.e.miss ≤ w.config.allowM ∧ w.lanes.w.miss ≤ w.config.allowM

/-- The expiries of a slot's timers (R116 to R119, R125). The stream timer takes LIVE to LATE and counts further
misses while they are below N, and a lane timer counts misses below M; at N the stream becomes LOST, with every timer
stopped and both lanes DOWN, and so it does when the start deadline passes in AWAIT; at M the lane becomes DOWN. Each
change of a status notes the slot. A timer that is not due changes nothing. The clauses for a timer that is not due
are the model's choice (log 3). -/
def Obligations.SlotTimersExpire : Prop :=
  ∀ (i : Nat) (s : State), i < 32 →
    let w := s.slot i
    let put (v : Slot) : State := { s with slots := s.slots.setIfInBounds i v }
    let next (t : Option Timer) : Option Timer :=
      t.map fun t => ⟨t.start + BitVec.ofNat 32 t.length, w.config.interval.toNat * 10⟩
    let down (l : SlotLane) : SlotLane :=
      if l.status = .down then l else { l with status := .down, miss := w.config.allowM, timer := none }
    let lost : Slot := { w with
      status := .lost, miss := w.config.allowN, timer := none, deadline := none
      lanes := ⟨down w.lanes.e, down w.lanes.w⟩
      lost := raise w.lost
      laneDown := raiseBy ((if w.lanes.e.status = .down then 0 else 1) + (if w.lanes.w.status = .down then 0 else 1))
        w.laneDown }
    (w.status = .live → s.clock.due w.timer = true → w.miss + 1 < w.config.allowN →
      exec (.streamTimerExpiry i) s = .next (settle (note (.slot i)
        (put { w with status := .late, miss := w.miss + 1, timer := next w.timer, late := raise w.late })))) ∧
    (w.status = .late → s.clock.due w.timer = true → w.miss + 1 < w.config.allowN →
      exec (.streamTimerExpiry i) s = .next (settle (put { w with miss := w.miss + 1, timer := next w.timer }))) ∧
    (w.status = .live ∨ w.status = .late → s.clock.due w.timer = true → w.config.allowN ≤ w.miss + 1 →
      exec (.streamTimerExpiry i) s = .next (settle (note (.slot i) (put lost)))) ∧
    ((w.status ≠ .live ∧ w.status ≠ .late) ∨ s.clock.due w.timer = false →
      exec (.streamTimerExpiry i) s = .next (settle s)) ∧
    (w.status = .await → s.clock.due w.deadline = true →
      exec (.startDeadlineExpiry i) s = .next (settle (note (.slot i) (put lost)))) ∧
    (w.status ≠ .await ∨ s.clock.due w.deadline = false →
      exec (.startDeadlineExpiry i) s = .next (settle s)) ∧
    ∀ x : Lane,
      let l := w.lanes.get x
      (l.status ≠ .down → s.clock.due l.timer = true → l.miss + 1 < w.config.allowM →
        exec (.laneTimerExpiry i x) s = .next (settle (put { w with
          lanes := w.lanes.set x { l with miss := l.miss + 1, timer := next l.timer } }))) ∧
      (l.status ≠ .down → s.clock.due l.timer = true → w.config.allowM ≤ l.miss + 1 →
        exec (.laneTimerExpiry i x) s = .next (settle (note (.slot i) (put { w with
          lanes := w.lanes.set x { l with status := .down, miss := w.config.allowM, timer := none }
          laneDown := raise w.laneDown })))) ∧
      (l.status = .down ∨ s.clock.due l.timer = false →
        exec (.laneTimerExpiry i x) s = .next (settle s))

/-- What a FIRST or DUPLICATE peer DATA copy does to the first slot that matches it (R110 to R115): the copy is counted and
recorded on its lane; a FIRST copy makes the stream LIVE with its timer started, and at its first appearance stops the
start deadline and starts an AWAIT lane's timer; the copy's lane becomes UP unless the stream is LOST. A copy that no
slot matches, and a REPEAT or STALE copy, changes no slot. -/
def Obligations.CopiesReviveTheirSlot : Prop :=
  ∀ (p : RingPort) (h : Handed) (rest : List Handed) (s : State), s.member = true → s.handed.get p = h :: rest →
    let b := s.buffer h.buf
    let tr := b.trailer
    let c := classOfField tr.cls
    let verdict := ((s.record tr.source.toNat).judge s.cfg.profile.streakLimit tr.seq tr.epoch tr.lane h.arrival
      ⟨s.clock.timerUnits, s.cfg.profile.aging * 1000⟩).verdict
    let seen (w : Slot) : Bool := w.covers ⟨verdict == .first, tr.source, tr.seq, tr.lane, c, appidField b.body, h.arrival⟩
    ringKind b = some .data → tr.source ≠ s.node → c.threshold ≤ s.free →
    ∃ t, exec (.ringFilter p) s = .next (settle t) ∧
      (verdict = .repeated ∨ verdict = .stale ∨ (∀ w ∈ s.slots.toList, seen w = false) → t.slots = s.slots) ∧
      ∀ i, i < 32 → (∀ k < i, seen (s.slot k) = false) → seen (s.slot i) = true →
        verdict = .first ∨ verdict = .duplicate →
        let w := s.slot i
        let fresh : Timer := ⟨s.clock.timerUnits, w.config.interval.toNat * 10⟩
        ∃ v : Slot, t.slots = s.slots.setIfInBounds i v ∧ v.config = w.config ∧ v.inUse = w.inUse ∧
          v.arrivals = raise w.arrivals ∧ v.late = w.late ∧ v.lost = w.lost ∧ v.laneDown = w.laneDown ∧
          (v.lanes.get tr.lane).record = some ⟨tr.seq, h.arrival⟩ ∧
          (v.lanes.get tr.lane.other).record = (w.lanes.get tr.lane.other).record ∧
          (verdict = .first → v.status = .live ∧ v.miss = 0 ∧ v.timer = some fresh ∧
            (w.status = .await → v.deadline = none)) ∧
          (verdict = .duplicate → v.status = w.status ∧ v.miss = w.miss ∧ v.timer = w.timer ∧
            v.deadline = w.deadline) ∧
          (verdict = .first ∨ w.status ≠ .lost → (v.lanes.get tr.lane).status = .up ∧
            (v.lanes.get tr.lane).miss = 0 ∧ (v.lanes.get tr.lane).timer = some fresh) ∧
          (verdict = .duplicate → w.status = .lost → (v.lanes.get tr.lane).status = (w.lanes.get tr.lane).status ∧
            (v.lanes.get tr.lane).miss = (w.lanes.get tr.lane).miss ∧
            (v.lanes.get tr.lane).timer = (w.lanes.get tr.lane).timer) ∧
          (v.lanes.get tr.lane.other).status = (w.lanes.get tr.lane.other).status ∧
          (verdict = .first → w.status = .await → (w.lanes.get tr.lane.other).status = .await →
            (v.lanes.get tr.lane.other).miss = 0 ∧ (v.lanes.get tr.lane.other).timer = some fresh) ∧
          (verdict = .duplicate ∨ w.status ≠ .await ∨ (w.lanes.get tr.lane.other).status ≠ .await →
            v.lanes.get tr.lane.other = w.lanes.get tr.lane.other)

/-! ## Chapter 7: the ring check unit and the time base -/

/-- The eighth law and the table of R137: every step keeps the ring's law, in which the ring state is the one the lane
states give and no lane is CLOSED while a ring port is DOWN; so the ring state is CLOSED only while neither ring port is
DOWN. -/
def Obligations.TheRingIsClosedOnlyWithBothPortsUp : Prop :=
  (∀ s t : State, s.RingLaw → step s = .next t → t.RingLaw ∧
    (t.check.ring = .closed → t.isDown .east = false ∧ t.isDown .west = false)) ∧
  ∀ s : State, s.RingLaw →
    (s.check.ring = .closed ↔ s.check.lanes.e.state = .closed ∧ s.check.lanes.w.state = .closed) ∧
    (s.check.ring = .opened ↔ s.check.lanes.e.state = .broken ∨ s.check.lanes.w.state = .broken)

/-- CHECK_PERIOD_EXPIRY (R130, R131, R135, R137, R193): each lane without a return in the period counts a miss, to at
most C, and breaks at C; the returned flags are cleared; each lane whose state changes and a change of the ring state are
noted; the check number advances and the timer is rearmed; and one CHECK frame, with the origin tag, the node time and
the check number, goes to the URGENT queue of each ring port that is not DOWN, or to none when the pool refuses. It finds
the pool and the queues `m` as they were (`u`); after a change of the ring state with auto-roll, as the report that is
called for and the trigger have left them: with a round that runs, or both ring ports DOWN, as the end of a command
leaves them (`ReportTimersSendOneReport`), else as that round's begin (`ARoundBeginsWithItsRoll`). Before the expiry
nothing changes. The first clause (log 3) and that the report and the round come before the CHECK frame (logs 12, 36) are
the model's choice. -/
def Obligations.CheckPeriodsJudgeBothLanes : Prop :=
  ∀ s : State,
    (s.clock.due s.check.period = false → exec .checkPeriodExpiry s = .next (settle s)) ∧
    (s.clock.due s.check.period = true →
      let judged (l m : CheckLane) : Prop :=
        m.returned = false ∧ m.latency = l.latency ∧ m.returns = l.returns ∧ m.lateCheck = l.lateCheck ∧
        (l.returned = true → m.state = l.state ∧ m.miss = l.miss ∧ m.breaks = l.breaks) ∧
        (l.returned = false → m.miss = min s.cfg.profile.missLimit (l.miss + 1) ∧
          (s.cfg.profile.missLimit ≤ l.miss + 1 → m.state = .broken ∧
            m.breaks = if l.state = .broken then l.breaks else raise l.breaks) ∧
          (l.miss + 1 < s.cfg.profile.missLimit → m.state = l.state ∧ m.breaks = l.breaks))
      let down (p : Port) := s.isDown p = true
      let bothDown := down .east ∧ down .west
      let content : List Byte := [0x03, 0xB7, 0, 0, 0, 1] ++ beBytes 6 s.cfg.control.toNat ++ [0xB7, 0xC1] ++
        beBytes 4 s.cfg.originTag.toNat ++ beBytes 4 s.clock.nodeTime.toNat ++ beBytes 2 (s.check.number + 1).toNat
      ∃ t u m : State, exec .checkPeriodExpiry s = .next (settle t) ∧
        judged s.check.lanes.e t.check.lanes.e ∧ judged s.check.lanes.w t.check.lanes.w ∧
        t.check.number = s.check.number + 1 ∧
        t.check.period = s.check.period.map (fun w =>
          ⟨w.start + BitVec.ofNat 32 w.length, s.cfg.profile.checkPeriod * 100⟩) ∧
        t.ports = s.ports ∧ t.tagger = s.tagger ∧ t.sources = s.sources ∧ t.slots = s.slots ∧ t.time = s.time ∧
        t.clock = s.clock ∧
        u.report = { s.report with changes := u.report.changes, more := u.report.more } ∧
        s.Noted (s.check.changedItems t.check) u.report ∧
        u = { s with report := u.report, check := { s.check with
          ring := t.check.ring
          lanes := ⟨{ t.check.lanes.e with sent := s.check.lanes.e.sent },
            { t.check.lanes.w with sent := s.check.lanes.w.sent }⟩ } } ∧
        (t.check.ring = s.check.ring ∨ s.cfg.autoRoll = false → m = u) ∧
        (t.check.ring ≠ s.check.ring → s.cfg.autoRoll = true → s.report.restartDue = false →
          (s.roll.running = true ∨ bothDown → m.pool = (settle u).pool ∧ m.egress = (settle u).egress) ∧
          (s.roll.running = false → ¬ bothDown →
            m.pool = (beginRound .auto (settle u)).pool ∧ m.egress = (beginRound .auto (settle u)).egress)) ∧
        t.roll = m.roll ∧ t.report = m.report ∧ t.eg .tap = m.eg .tap ∧
        (bothDown → t.pool = m.pool ∧ t.egress = m.egress) ∧
        (¬ bothDown → m.free = 0 →
          t.egress = m.egress ∧ t.pool = { m.pool with refused := raise m.pool.refused }) ∧
        (¬ bothDown → 1 ≤ m.free → m.pool.wf = true →
          (s.isDown .east = false → (m.eg .east).urgent.length < 32) →
          (s.isDown .west = false → (m.eg .west).urgent.length < 32) →
          let x : Entry := ⟨m.pool.take.1,
            .originated .check .urgent (s.check.number + 1) s.loader.ownEpoch s.node, s.clock.timerUnits⟩
          t.eg .east = (if down .east then m.eg .east
            else { m.eg .east with urgent := (m.eg .east).urgent ++ [x] }) ∧
          t.eg .west = (if down .west then m.eg .west
            else { m.eg .west with urgent := (m.eg .west).urgent ++ [x] }) ∧
          t.buffer m.pool.take.1 =
            ⟨if down .east ∨ down .west then 1 else 2, content ++ zeros (60 - content.length), false⟩ ∧
          t.check.lanes.e.sent =
            (if down .east then s.check.lanes.e.sent else raise s.check.lanes.e.sent) ∧
          t.check.lanes.w.sent =
            (if down .west then s.check.lanes.w.sent else raise s.check.lanes.w.sent)))

/-- RING_FILTER on an own CHECK frame (R38, R40, R132 to R134, R137). With its origin tag the node's: current, it is
counted on its lane with its latency, and closes that lane while neither ring port is DOWN; late, it is only counted
late; the other lane is unchanged. A change of the lane's state and of the ring state are noted (with auto-roll a change
of the ring state is also a trigger, and `RingChangesStartRounds` says the notes). With another origin tag it is a clash
frame, and a rise of CLASH is noted (R41). A copy that crossed notes its port where CROSSED was clear (R16, R36). -/
def Obligations.ReturnsCloseTheirLane : Prop :=
  ∀ (p : RingPort) (h : Handed) (rest : List Handed) (s : State), s.member = true → s.handed.get p = h :: rest →
    let b := s.buffer h.buf
    let x := b.trailer.lane
    let l := s.check.lanes.get x
    let latency := h.arrival - BitVec.ofNat 32 (fieldAt b.body 18 4)
    let current := b.trailer.epoch = s.loader.ownEpoch ∧
      (s.check.number - b.trailer.seq).toNat + 1 ≤ s.cfg.profile.missLimit
    let portDown := s.isDown .east = true ∨ s.isDown .west = true
    let crossed : List Item :=
      if x.ownPort = p ∧ s.isDown p.port = false ∧ (s.port p.port).ind.crossed = false then [.port p.port] else []
    ringKind b = some .check → b.trailer.source = s.node →
    ∃ t, exec (.ringFilter p) s = .next (settle t) ∧ t.handed = s.handed.set p rest ∧
      t.sources = s.sources ∧ t.slots = s.slots ∧ t.tagger = s.tagger ∧ t.time = s.time ∧
      (BitVec.ofNat 32 (fieldAt b.body 14 4) ≠ s.cfg.originTag →
        s.Noted (crossed ++ if s.filter.clash then [] else [.clash]) t.report ∧
        t.check = s.check ∧ t.pool = s.pool.release h.buf ∧ t.filter.clash = true ∧
        t.filter.clashCount = raise s.filter.clashCount ∧ t.filter.hold = some ⟨s.clock.timerUnits, 100000⟩) ∧
      (BitVec.ofNat 32 (fieldAt b.body 14 4) = s.cfg.originTag →
        t.filter.clash = s.filter.clash ∧ t.check.number = s.check.number ∧ t.check.period = s.check.period ∧
        t.check.lanes.get x.other = s.check.lanes.get x.other ∧
        (t.check.ring = s.check.ring ∨ s.cfg.autoRoll = false →
          s.Noted (crossed ++ s.check.changedItems t.check) t.report) ∧
        (¬ current → t.check.lanes.get x = { l with lateCheck := raise l.lateCheck }) ∧
        (current → t.check.lanes.get x = { l with
          returns := raise l.returns, returned := true
          latency := ⟨true, latency,
            if l.latency.present = true ∧ latency.toNat ≤ l.latency.max.toNat then l.latency.max else latency⟩
          state := if portDown then l.state else .closed
          miss := if portDown then l.miss else 0 }))

/-- TIME_PERIOD_EXPIRY (R141, R193): the timer is rearmed; with both ring ports DOWN no frame is composed; with a buffer
refused none is sent and no number is used; else one number is taken and one TIME entry, whose frame leaves its carried
time to be written (log 27), joins the URGENT queue of each ring port that is not DOWN. Before the expiry nothing
changes. The first clause is the model's choice (log 3). -/
def Obligations.TheTimeSourceSendsTimeFrames : Prop :=
  ∀ s : State,
    (s.clock.due s.time.period = false → exec .timePeriodExpiry s = .next (settle s)) ∧
    (s.clock.due s.time.period = true →
      let period := s.time.period.map fun w => Timer.mk (w.start + BitVec.ofNat 32 w.length) (s.cfg.timePeriod * 1000)
      let content : List Byte :=
        [0x03, 0xB7, 0, 0, 0, 3] ++ beBytes 6 s.cfg.control.toNat ++ [0xB7, 0xC1] ++ zeros 4
      (s.isDown .east = true → s.isDown .west = true →
        exec .timePeriodExpiry s = .next (settle { s with time := { s.time with period := period } })) ∧
      (s.isDown .east = false ∨ s.isDown .west = false → s.free = 0 →
        exec .timePeriodExpiry s = .next (settle { s with
          time := { s.time with period := period }
          pool := { s.pool with refused := raise s.pool.refused } })) ∧
      (s.isDown .east = false ∨ s.isDown .west = false → 1 ≤ s.free → s.pool.wf = true →
        (s.isDown .east = false → (s.eg .east).urgent.length < 32) →
        (s.isDown .west = false → (s.eg .west).urgent.length < 32) →
        let x : Entry := ⟨s.pool.take.1, .originated .time .urgent s.tagger.seq s.loader.ownEpoch s.node,
          s.clock.timerUnits⟩
        ∃ t, exec .timePeriodExpiry s = .next (settle t) ∧
          t.tagger = { s.tagger with seq := s.tagger.seq + 1 } ∧
          t.time = { s.time with period := period, sent := raise s.time.sent } ∧
          t.eg .east = (if s.isDown .east then s.eg .east
            else { s.eg .east with urgent := (s.eg .east).urgent ++ [x] }) ∧
          t.eg .west = (if s.isDown .west then s.eg .west
            else { s.eg .west with urgent := (s.eg .west).urgent ++ [x] }) ∧
          t.buffer s.pool.take.1 =
            ⟨if s.isDown .east || s.isDown .west then 1 else 2, content ++ zeros (60 - content.length), false⟩ ∧
          t.eg .tap = s.eg .tap ∧ t.ports = s.ports ∧ t.clock = s.clock ∧ t.check = s.check ∧ t.roll = s.roll ∧
          t.sources = s.sources))

/-! ## Chapter 8: the roll unit -/

/-- Every step keeps the roll unit's law (R148, R149, R151, R161): the timeout runs in a RUNNING round alone, in IDLE
the again flag is clear and both lanes are back, and a list of at most 62 entries is present only for RETURNED and
TURNED. That the lanes go back at a round's end is read by inference (log 20). -/
def Obligations.TheRollUnitKeepsItsLaw : Prop :=
  ∀ s t : State, s.RollLaw → step s = .next t → t.RollLaw

/-- What the start of a round does, for every cause (R151, R152, R193): the next number, RUNNING, lanes OPEN or LOCAL by
the ring ports, the timeout started and ROUNDS raised; one ORIGINATED entry of the roll, with this node, the round's
number and an empty list, on the URGENT queue of each ring port that is not DOWN, or none when the pool refuses; the
ROLL BEGIN notice, which says of each lane whether it was sent, LOCAL or refused, or NOTICE-DROP with 4 held; and an item
of kind roll noted. -/
def Obligations.ARoundBeginsWithItsRoll : Prop :=
  ∀ (cause : RollCause) (s : State), s.pool.wf = true →
    let t := beginRound cause s
    let n := s.roll.number + 1
    let down (p : Port) := s.isDown p = true
    let refused := s.free = 0
    let lane (p : Port) : RollLane := if down p then { result := .ownPortDown } else {}
    let told (p : Port) : LaneSend := if down p then .ownPortDown else if refused then .refused else .sent
    let content : List Byte := [0x03, 0xB7, 0, 0, 0, 2] ++ beBytes 6 s.cfg.control.toNat ++ [0xB7, 0xC1] ++
      [s.node.setWidth 8, n, 0, 0]
    t.roll = { s.roll with
      running := true, cause := cause, number := n, lanes := ⟨lane .east, lane .west⟩
      timeout := some ⟨s.clock.timerUnits, s.cfg.profile.rollTimeout * 1000⟩
      counters := { s.roll.counters with rounds := raise s.roll.counters.rounds } } ∧
    (s.report.notices.length < 4 →
      t.report.notices = s.report.notices ++ [.begins n cause (told .east) (told .west)] ∧
      t.report.counters = s.report.counters) ∧
    (4 ≤ s.report.notices.length → t.report.notices = s.report.notices ∧
      t.report.counters = { s.report.counters with noticeDrop := raise s.report.counters.noticeDrop }) ∧
    (s.loader.nodeState ≠ .reset → .roll ∈ t.report.changes ∨ t.report.more = true) ∧
    (down .east ∧ down .west → t.egress = s.egress ∧ t.pool = s.pool) ∧
    (¬ (down .east ∧ down .west) → refused →
      t.egress = s.egress ∧ t.pool = { s.pool with refused := raise s.pool.refused }) ∧
    (¬ (down .east ∧ down .west) → ¬ refused →
      (s.isDown .east = false → (s.eg .east).urgent.length < 32) →
      (s.isDown .west = false → (s.eg .west).urgent.length < 32) →
      let x : Entry := ⟨s.pool.take.1, .originated .roll .urgent (n.setWidth 16) s.loader.ownEpoch s.node,
        s.clock.timerUnits⟩
      t.eg .east = (if down .east then s.eg .east
        else { s.eg .east with urgent := (s.eg .east).urgent ++ [x] }) ∧
      t.eg .west = (if down .west then s.eg .west
        else { s.eg .west with urgent := (s.eg .west).urgent ++ [x] }) ∧
      t.buffer s.pool.take.1 =
        ⟨if down .east ∨ down .west then 1 else 2, content ++ zeros (60 - content.length), false⟩) ∧
    t.eg .tap = s.eg .tap ∧ t.ports = s.ports ∧ t.tagger = s.tagger ∧ t.sources = s.sources ∧ t.slots = s.slots ∧
    t.check = s.check ∧ t.time = s.time ∧ t.clock = s.clock

/-- The ROLL and HALT-ROLL commands (R149, R151, R162) at the head of the command queue. ROLL in IDLE starts a round
with cause COMMAND, as `ARoundBeginsWithItsRoll` says; with both ports DOWN the round is over at once, with outcome
OPEN. In RUNNING it changes nothing and answers BUSY. HALT-ROLL ends a RUNNING round ABORTED, with its notice, clears the
again flag and keeps the ring map; in IDLE it changes nothing. That the lanes of a halted round go back is read by
inference (log 20). -/
def Obligations.RollCommandsStartAndHaltRounds : Prop :=
  ∀ (k : Command) (rest : List Command) (s : State), s.report.queue = k :: rest → k.result = none →
    let answered (r : CommandResult) (u : State) : State :=
      composeReply { u with report := { u.report with queue := { k with result := some r } :: rest } }
    (k.code = 2 → s.roll.running = true → exec .roll s = .next (settle (answered .busy s))) ∧
    (k.code = 2 → s.roll.running = false → s.isDown .east = false ∨ s.isDown .west = false →
      exec .roll s = .next (settle (answered .done (beginRound .command s)))) ∧
    (k.code = 2 → s.roll.running = false → s.roll.again = false → s.isDown .east = true → s.isDown .west = true →
      ∃ u, exec .roll s = .next (settle (answered .done u)) ∧ u.ports = s.ports ∧ u.tagger = s.tagger ∧
        u.egress = s.egress ∧ u.roll.number = s.roll.number + 1 ∧
        u.roll.counters = { s.roll.counters with rounds := raise s.roll.counters.rounds } ∧
        u.roll.running = false ∧ u.roll.timeout = none ∧ u.roll.map.outcome = .opened ∧
        u.roll.map.number = s.roll.number + 1 ∧ u.roll.map.endTime = s.clock.nodeTime ∧
        u.roll.map.eastEnd = some (s.node.setWidth 8) ∧ u.roll.map.westEnd = some (s.node.setWidth 8) ∧
        (s.report.notices.length < 3 → u.report.notices = s.report.notices ++
          [.begins (s.roll.number + 1) .command .ownPortDown .ownPortDown,
           .ends (s.roll.number + 1) .opened (some (s.node.setWidth 8)) (some (s.node.setWidth 8))])) ∧
    (k.code = 3 → s.roll.running = true → s.report.notices.length < 4 →
      ∃ u, exec .haltRoll s = .next (settle (answered .done u)) ∧ u.ports = s.ports ∧
        u.roll = { s.roll with
          running := false, timeout := none, lanes := ⟨{}, {}⟩, again := false
          counters := { s.roll.counters with aborted := raise s.roll.counters.aborted } } ∧
        u.report.notices = s.report.notices ++ [.ends s.roll.number .aborted none none]) ∧
    (k.code = 3 → s.roll.running = false → exec .haltRoll s = .next (settle (answered .done s)))

/-- Auto triggers (R137, R150). Of the events that can change the ring state, one that changes it with auto-roll set
starts a round of cause AUTO, or sets the again flag of the round that runs; without a change, or with auto-roll off, the
roll unit is as it was. A round that starts with both ring ports DOWN is over at once, with outcome OPEN. The trigger
finds the lanes and the ring, and the port that fell or crossed, noted (`u`). With the hold run out the report called for
is composed of that state before the trigger acts, the one that the end of a command composes
(`ReportTimersSendOneReport`); a node report, which takes a buffer, empties the list, and the round's start notes the
roll. The moment of that report (log 12) and the place of the round's roll among the frames of one event (logs 36, 37, 39)
are the model's choice. -/
def Obligations.RingChangesStartRounds : Prop :=
  let lane (down : Bool) : RollLane := if down then { result := .ownPortDown } else {}
  ∀ (c : Instr) (s : State), c = .checkPeriodExpiry ∨ (∃ p, c = .linkFall p) ∨ (∃ p, c = .ringFilter p) →
    ∃ t, exec c s = .next (settle t) ∧ t.loader = s.loader ∧
      (t.check.ring = s.check.ring ∨ s.cfg.autoRoll = false → t.roll = s.roll) ∧
      (t.check.ring ≠ s.check.ring → s.cfg.autoRoll = true →
        (s.roll.running = true → t.roll = { s.roll with again := true }) ∧
        (s.roll.running = false → s.roll.again = false →
          t.roll.number = s.roll.number + 1 ∧ t.roll.again = false ∧
          t.roll.counters = { s.roll.counters with rounds := raise s.roll.counters.rounds } ∧
          (t.isDown .east = false ∨ t.isDown .west = false →
            t.roll.running = true ∧ t.roll.cause = .auto ∧ t.roll.map = s.roll.map ∧
            t.roll.lanes = ⟨lane (t.isDown .east), lane (t.isDown .west)⟩ ∧
            t.roll.timeout = some ⟨s.clock.timerUnits, s.cfg.profile.rollTimeout * 1000⟩) ∧
          (t.isDown .east = true → t.isDown .west = true →
            t.roll.running = false ∧ t.roll.timeout = none ∧ t.roll.map.outcome = .opened ∧
            t.roll.map.number = s.roll.number + 1)) ∧
        ∃ (u : State) (ports : List Item), (∀ i ∈ ports, ∃ q, i = .port q) ∧
          s.Noted (ports ++ s.check.changedItems t.check) u.report ∧
          u.report.hold = s.report.hold ∧ u.report.notices = s.report.notices ∧
          u.loader = s.loader ∧ u.clock = s.clock ∧ u.ports = t.ports ∧ u.roll = s.roll ∧ u.check.ring = t.check.ring ∧
          u.check.lanes.e.state = t.check.lanes.e.state ∧ u.check.lanes.w.state = t.check.lanes.w.state ∧
          s.free ≤ u.free ∧ u.eg .tap = s.eg .tap ∧
          (u.report.restartDue = false → t.eg .tap = (settle u).eg .tap) ∧
          let carried := s.member = true ∧ s.report.hold = none ∧ s.report.notices = [] ∧ 49 ≤ u.free
          let left : State :=
            { u with report := { u.report with
              changes := if carried then [] else u.report.changes, more := if carried then false else u.report.more } }
          left.Noted (if s.roll.running = true then [] else [.roll]) t.report)

/-- PEER_ROLL takes the oldest peer roll of its arrival port (R91, R153 to R155, R191). Turned, it is passed unchanged out
of the opposite port, or discarded there at a second dead end. On its outward pass it is discarded when its list does
not fit or holds this node; else a new frame with the trailer as received carries its list with this node's entry at
the end, or at 62 entries the same list with FULL set, and leaves by the opposite port, or, turned, by the arrival port,
or nowhere with both DOWN; a refusal by the pool leaves none; and the received buffer's hold ends. The place of the new
entry over padding, and the padding of a short body, are read by inference (log 25). -/
def Obligations.PeerRollsAreExtendedAndPassed : Prop :=
  ∀ (p : RingPort) (before after : List RollIn) (r : RollIn) (s : State),
    s.rollIn = before ++ r :: after → r.port = p → r.own = false →
    (∀ x ∈ before, x.port ≠ p ∨ x.own = true) →
    let b := s.buffer r.buf
    let out := p.opposite.port
    let n := rollCount b.body
    let fits := n ≤ 62 ∧ 18 + 4 * n ≤ b.body.length
    let mine : RollEntry := ⟨s.node.setWidth 8, !s.isDown .east, !s.isDown .west,
      (s.port .east).state == .degraded, (s.port .west).state == .degraded, s.check.ring, natByte s.lostSlots⟩
    let known := ∃ e ∈ rollEntries b.body, e.number = s.node.setWidth 8
    ∃ t, exec (.peerRoll p) s = .next (settle t) ∧ t.rollIn = before ++ after ∧ t.ports = s.ports ∧
      t.sources = s.sources ∧ t.slots = s.slots ∧ t.check = s.check ∧ t.tagger = s.tagger ∧ t.eg .tap = s.eg .tap ∧
      t.roll = { s.roll with counters := t.roll.counters } ∧
      (rollTurned b.body = true → s.isDown out = false → (s.eg out).urgent.length < 32 →
        t.eg out = { s.eg out with urgent := (s.eg out).urgent ++ [⟨r.buf, .forwarded, s.clock.timerUnits⟩] } ∧
        t.roll.counters = s.roll.counters) ∧
      (rollTurned b.body = true → s.isDown out = true →
        t.egress = s.egress ∧ t.pool = s.pool.release r.buf ∧
        t.roll.counters = { s.roll.counters with secondBreak := raise s.roll.counters.secondBreak }) ∧
      (rollTurned b.body = false → ¬ fits ∨ known →
        t.egress = s.egress ∧ t.pool = s.pool.release r.buf ∧
        t.roll.counters = { s.roll.counters with loops := raise s.roll.counters.loops }) ∧
      (rollTurned b.body = false → fits → ¬ known →
        let extended : RollCounters := { s.roll.counters with
          appended := if n ≤ 61 then raise s.roll.counters.appended else s.roll.counters.appended }
        let carries (turned : Bool) : Prop :=
          let new := t.buffer s.pool.take.1
          s.pool.wf = true → s.pool.get? r.buf = some b →
            new.refs = 1 ∧ new.trailerBytes = b.trailerBytes ∧ 60 ≤ new.body.length ∧
            rollTurned new.body = turned ∧ rollFull new.body = (rollFull b.body || decide (n = 62)) ∧
            rollEntries new.body = (if n = 62 then rollEntries b.body else rollEntries b.body ++ [mine])
        (s.free = 0 → t.egress = s.egress ∧ t.roll.counters = extended ∧
          t.pool = Pool.release { s.pool with refused := raise s.pool.refused } r.buf) ∧
        (1 ≤ s.free → s.isDown out = false → (s.eg out).urgent.length < 32 →
          t.roll.counters = extended ∧ carries false ∧ t.eg out = { s.eg out with
            urgent := (s.eg out).urgent ++ [⟨s.pool.take.1, .forwarded, s.clock.timerUnits⟩] }) ∧
        (1 ≤ s.free → s.isDown out = true → s.isDown p.port = false → (s.eg p.port).urgent.length < 32 →
          t.roll.counters = { extended with turned := raise s.roll.counters.turned } ∧ carries true ∧
          t.eg p.port = { s.eg p.port with
            urgent := (s.eg p.port).urgent ++ [⟨s.pool.take.1, .forwarded, s.clock.timerUnits⟩] }) ∧
        (1 ≤ s.free → s.isDown out = true → s.isDown p.port = true →
          t.egress = s.egress ∧
          t.roll.counters = { extended with secondBreak := raise s.roll.counters.secondBreak } ∧
          (s.pool.wf = true → s.pool.get? r.buf = some b → ∀ i, t.pool.get? i = (s.pool.release r.buf).get? i)))

/-- OWN_ROLL and ROLL_TIMEOUT_EXPIRY (R156 to R161). A roll of another round or epoch is late and changes no round. A
roll of the present round that fits its lane gives it RETURNED or TURNED with its list; when the other lane has its
result, or when the timeout makes every OPEN lane TIMEOUT, the round ends at once: the ring map holds both lanes, the
outcome of R159 and, for OPEN alone, the two ends: the node of each list's last entry, or this node; the ROLL END notice
carries them, or NOTICE-DROP rises with 4 held; an item of kind roll is noted; and the unit is IDLE with the timeout
stopped, or, the again flag set, the flag is cleared and a round of cause AGAIN with the next number starts at once, with
its ROLL BEGIN notice. With both ring ports DOWN that one is over at once too, with outcome OPEN (log 31). The last
clause is the model's choice (log 3). -/
def Obligations.OwnRollsEndTheRound : Prop :=
  let outcome (e w : RollLane) (o : RollOutcome) : Prop :=
    (e.result = .timeout ∨ w.result = .timeout → o = .incomplete) ∧
    (e.result = .returned → w.result = .returned →
      (o = .closed ↔ (e.entries.map RollEntry.number).reverse = w.entries.map RollEntry.number) ∧
      (o = .mismatch ↔ (e.entries.map RollEntry.number).reverse ≠ w.entries.map RollEntry.number)) ∧
    (e.result = .turned ∨ e.result = .ownPortDown → w.result = .turned ∨ w.result = .ownPortDown → o = .opened) ∧
    (e.result = .returned → w.result = .turned ∨ w.result = .ownPortDown → o = .changed) ∧
    (w.result = .returned → e.result = .turned ∨ e.result = .ownPortDown → o = .changed)
  let lane (down : Bool) : RollLane := if down then { result := .ownPortDown } else {}
  let ended (free : Nat) (s t : State) (e w : RollLane) : Prop :=
    ∃ o, outcome e w o ∧
    let node : Byte := s.node.setWidth 8
    let far (l : RollLane) : Option Byte :=
      if o = .opened then some ((l.entries.getLast?.map RollEntry.number).getD node) else none
    let ending : Notice := .ends s.roll.number o (far e) (far w)
    let told (p : Port) : LaneSend := if s.isDown p then .ownPortDown else if free = 0 then .refused else .sent
    let next : Notice := .begins (s.roll.number + 1) .again (told .east) (told .west)
    let noticed (l : List Notice) : Prop :=
      t.report.notices = s.report.notices ++ l ∧ t.report.counters = s.report.counters
    t.roll.again = false ∧
    (s.loader.nodeState ≠ .reset → .roll ∈ t.report.changes ∨ t.report.more = true) ∧
    (s.roll.again = false → t.egress = s.egress ∧ t.roll.running = false ∧ t.roll.timeout = none ∧
      t.roll.counters = s.roll.counters ∧ t.roll.map = ⟨o, s.roll.number, s.clock.nodeTime, ⟨e, w⟩, far e, far w⟩ ∧
      (s.report.notices.length < 4 → noticed [ending]) ∧
      (4 ≤ s.report.notices.length → t.report.notices = s.report.notices ∧
        t.report.counters = { s.report.counters with noticeDrop := raise s.report.counters.noticeDrop })) ∧
    (s.roll.again = true → t.roll.number = s.roll.number + 1 ∧
      t.roll.counters = { s.roll.counters with rounds := raise s.roll.counters.rounds } ∧
      (s.isDown .east = false ∨ s.isDown .west = false →
        t.roll.running = true ∧ t.roll.cause = .again ∧
        t.roll.map = ⟨o, s.roll.number, s.clock.nodeTime, ⟨e, w⟩, far e, far w⟩ ∧
        t.roll.lanes = ⟨lane (s.isDown .east), lane (s.isDown .west)⟩ ∧
        t.roll.timeout = some ⟨s.clock.timerUnits, s.cfg.profile.rollTimeout * 1000⟩ ∧
        (s.report.notices.length < 3 → noticed [ending, next])) ∧
      (s.isDown .east = true → s.isDown .west = true →
        t.roll.running = false ∧ t.roll.timeout = none ∧ t.roll.map.outcome = .opened ∧
        t.roll.map.number = s.roll.number + 1 ∧ t.roll.map.eastEnd = some node ∧ t.roll.map.westEnd = some node ∧
        (s.report.notices.length < 2 →
          noticed [ending, next, .ends (s.roll.number + 1) .opened (some node) (some node)])))
  (∀ (p : RingPort) (before after : List RollIn) (r : RollIn) (s : State),
    s.rollIn = before ++ r :: after → r.port = p → r.own = true →
    (∀ x ∈ before, x.port ≠ p ∨ x.own = false) →
    let b := s.buffer r.buf
    let x := b.trailer.lane
    let late := s.roll.running = false ∨ b.trailer.epoch ≠ s.loader.ownEpoch ∨
      b.trailer.seq.setWidth 8 ≠ s.roll.number
    let fits := rollCount b.body ≤ 62 ∧ 18 + 4 * rollCount b.body ≤ b.body.length
    let result := if rollTurned b.body then LaneResult.turned else .returned
    let home := (s.roll.lanes.get x).result = .unresolved ∧
      (rollTurned b.body = true → p = x.ownPort) ∧ (rollTurned b.body = false → p = x.ownPort.opposite)
    let lanes := s.roll.lanes.set x ⟨result, rollEntries b.body, rollFull b.body⟩
    ∃ t, exec (.ownRoll p) s = .next (settle t) ∧ t.rollIn = before ++ after ∧ t.ports = s.ports ∧
      t.check = s.check ∧
      (late ∨ ¬ fits ∨ ¬ home ∨ (s.roll.lanes.get x.other).result = .unresolved →
        t.egress = s.egress ∧ t.pool = s.pool.release r.buf ∧ t.report = s.report) ∧
      (late → t.roll = { s.roll with
        counters := { s.roll.counters with lateRoll := raise s.roll.counters.lateRoll } }) ∧
      (¬ late → ¬ fits ∨ ¬ home → t.roll = { s.roll with
        counters := { s.roll.counters with stray := raise s.roll.counters.stray } }) ∧
      (¬ late → fits → home → (s.roll.lanes.get x.other).result = .unresolved →
        t.roll = { s.roll with lanes := lanes }) ∧
      (¬ late → fits → home → (s.roll.lanes.get x.other).result ≠ .unresolved →
        ended (s.pool.release r.buf).free s t lanes.e lanes.w)) ∧
  ∀ s : State,
    (s.roll.running = true → s.clock.due s.roll.timeout = true →
      let timed (l : RollLane) : RollLane := if l.result = .unresolved then { result := .timeout } else l
      ∃ t, exec .rollTimeoutExpiry s = .next (settle t) ∧ t.ports = s.ports ∧ t.check = s.check ∧
        ended s.free s t (timed s.roll.lanes.e) (timed s.roll.lanes.w)) ∧
    (s.roll.running = false ∨ s.clock.due s.roll.timeout = false →
      exec .rollTimeoutExpiry s = .next (settle s))

/-! ## Chapter 9: start-up and stored configuration -/

/-- IMAGE_READ_ATTEMPT (R171, R172, R176, R177): the first failed check, in the order of R172, gives the attempt's
status; the transaction ends as R171 says, a missing acknowledge or a held SDA at that point; the first and second
failed attempts are followed by the next one; the third leaves a bad image, with the fallback configuration by the
straps, bound for FALLBACK or at once in TRANSIT; and a good image decides the node number (its configuration:
`GoodImagesGiveTheConfiguration`). The record of I2C operations is the model's choice (log 26). -/
def Obligations.ImageReadAttemptsAreJudged : Prop :=
  ∀ s : State, s.loader.nodeState = .loading → s.loader.phase = .image →
    let strapped := s.loader.strap ≠ 0 ∧ s.loader.strap ≠ 63
    let made (read : ImageRead) : List BusOp := imageOps read ++ if s.loader.stopFirst then [BusOp.stop] else []
    let addressing : List BusOp := [.start, .send 0xAE, .send 0x00, .send 0x00, .start, .send 0xAF]
    (∀ f, (attemptResult (.failed f)).1 = .noAck) ∧
    imageOps (.failed .sdaLow) = [.stop] ∧
    imageOps (.failed (.noAck 0)) = [.start, .send 0xAE, .stop] ∧
    imageOps (.failed (.noAck 1)) = [.start, .send 0xAE, .send 0x00, .stop] ∧
    imageOps (.failed (.noAck 2)) = [.start, .send 0xAE, .send 0x00, .send 0x00, .stop] ∧
    imageOps (.failed .sdaLowAgain) = [.start, .send 0xAE, .send 0x00, .send 0x00, .stop] ∧
    imageOps (.failed (.noAck 3)) = addressing ++ [.stop] ∧
    (∀ given : List Byte, 8 ≤ given.length →
      let st := (attemptResult (.bytes given)).1
      (st = .badMagic ∨ st = .badFormat ∨ st = .badLength →
        imageOps (.bytes given) = addressing ++ [.read 8 false, .stop]) ∧
      (st = .badCrc ∨ st = .badLayout ∨ st = .good →
        imageOps (.bytes given) = addressing ++ [.read 8 true, .read (fieldAt given 4 2 - 8) false, .stop])) ∧
    (∀ given : List Byte, 8 ≤ given.length →
      let st := (attemptResult (.bytes given)).1
      let tables := 42 + 3 * (byteAt given 39).toNat + 14 * (byteAt given 40).toNat + 11 * (byteAt given 41).toNat
      (fieldAt given 0 2 ≠ 0xE6B3 → st = .badMagic) ∧
      (fieldAt given 0 2 = 0xE6B3 → byteAt given 2 ≠ 1 → st = .badFormat) ∧
      (fieldAt given 0 2 = 0xE6B3 → byteAt given 2 = 1 → fieldAt given 4 2 < 32 ∨ 2000 < fieldAt given 4 2 →
        st = .badLength) ∧
      (fieldAt given 0 2 = 0xE6B3 → byteAt given 2 = 1 → 32 ≤ fieldAt given 4 2 → fieldAt given 4 2 ≤ 2000 →
        given.length = fieldAt given 4 2 →
        ((crc16 (given.take (given.length - 2))).toNat ≠ fieldAt given (given.length - 2) 2 → st = .badCrc) ∧
        ((crc16 (given.take (given.length - 2))).toNat = fieldAt given (given.length - 2) 2 →
          (given.length < 44 ∨ given.length < tables + 2 → st = .badLayout) ∧
          (44 ≤ given.length → tables + 2 ≤ given.length → attemptResult (.bytes given) = (.good, given))))) ∧
    (∀ read : ImageRead, (attemptResult read).1 ≠ .good →
      (s.loader.attempts < 2 → exec (.imageReadAttempt read) s = .next (settle { s with loader := { s.loader with
        attempts := s.loader.attempts + 1, imageStatus := (attemptResult read).1, stopFirst := false
        bus := made read } })) ∧
      (2 ≤ s.loader.attempts → strapped → ∃ t, exec (.imageReadAttempt read) s = .next (settle t) ∧
        t.loader.nodeState = .loading ∧ t.loader.phase = .epochRead 0 ∧
        t.loader.attempts = s.loader.attempts + 1 ∧
        t.loader.imageStatus = (attemptResult read).1 ∧ t.loader.bus = made read ∧
        t.loader.warnings = s.loader.warnings ∧
        ∃ d, t.loader.draft = some d ∧ d.next = .fallback ∧
          d.watch = [] ∧ d.settings = { nodeNumber := s.loader.strap, originTag := s.loader.strap.setWidth 32
                                        control := 0x020000000000#48 ||| s.loader.strap.setWidth 48 }) ∧
      (2 ≤ s.loader.attempts → ¬ strapped → ∃ t, exec (.imageReadAttempt read) s = .next (settle t) ∧
        t.loader.nodeState = .transit ∧ t.loader.imageStatus = (attemptResult read).1 ∧
        t.loader.config = some { nodeNumber := s.loader.strap, originTag := s.loader.strap.setWidth 32
                                 control := 0x020000000000#48 ||| s.loader.strap.setWidth 48 })) ∧
    (∀ (read : ImageRead) (image : List Byte), attemptResult read = (.good, image) →
      (1 ≤ (byteAt image 6).toNat → (byteAt image 6).toNat ≤ 62 →
        ∃ t d, exec (.imageReadAttempt read) s = .next (settle t) ∧ t.loader.phase = .epochRead 0 ∧
          t.loader.bus = made read ∧ t.loader.attempts = s.loader.attempts + 1 ∧
          t.loader.imageStatus = .good ∧ t.loader.draft = some d ∧ d.next = .running ∧
          d.settings.nodeNumber = (byteAt image 6).setWidth 6 ∧ t.loader.warnings.nodeStrapped = false) ∧
      ((byteAt image 6).toNat = 0 ∨ 63 ≤ (byteAt image 6).toNat → strapped →
        ∃ t d, exec (.imageReadAttempt read) s = .next (settle t) ∧ t.loader.phase = .epochRead 0 ∧
          t.loader.imageStatus = .good ∧ t.loader.draft = some d ∧ d.next = .running ∧
          d.settings.nodeNumber = s.loader.strap ∧ t.loader.warnings.nodeStrapped = true) ∧
      ((byteAt image 6).toNat = 0 ∨ 63 ≤ (byteAt image 6).toNat → ¬ strapped →
        ∃ t, exec (.imageReadAttempt read) s = .next (settle t) ∧ t.loader.nodeState = .transit ∧
          t.loader.imageStatus = .good ∧ t.loader.warnings.nodeStrapped = true))

/-- The configuration that a good image gives (R173 to R175, R197): each profile setting from its column or, its flag
set, from the image, clamped; the fields as stored or clamped; a group's control address replaced by the node's own; the
tables placed in order up to their sizes, each entry clamped; the clamp count and the warnings. It is decided for a
ring member, to be fixed at the end of LOADING, and fixed at once in TRANSIT, where no start deadline runs. -/
def Obligations.GoodImagesGiveTheConfiguration : Prop :=
  ∀ (read : ImageRead) (image : List Byte) (s : State), s.loader.nodeState = .loading → s.loader.phase = .image →
    attemptResult read = (.good, image) →
    let b (i : Nat) : Nat := (byteAt image i).toNat
    let near (lo hi x : Nat) : Nat := max lo (min hi x)
    let outside (lo hi x : Nat) : Nat := if lo ≤ x ∧ x ≤ hi then 0 else 1
    let columns : List Profile := [⟨10, 3, 50, 8, 20, 10, 62, 10, 0, 0⟩, ⟨2, 3, 10, 4, 5, 2, 62, 10, 0, 0⟩,
      ⟨50, 4, 200, 16, 100, 50, 62, 10, 0, 0⟩, ⟨5, 3, 30, 8, 10, 5, 16, 10, 0, 0⟩]
    let sel := if b 3 ≤ 3 then b 3 else 0
    let col := columns.getD sel {}
    let flag (i : Nat) : Bool := (BitVec.ofNat 10 (fieldAt image 8 2)).getLsbD i
    let setting (i lo hi x own : Nat) : Nat := if flag i then near lo hi x else own
    let missed (i lo hi x : Nat) : Nat := if flag i then outside lo hi x else 0
    let number := if 1 ≤ b 6 ∧ b 6 ≤ 62 then (byteAt image 6).setWidth 6 else s.loader.strap
    let stored := BitVec.ofNat 48 (fieldAt image 25 6)
    let group := b 25 % 2 = 1
    let filters := 42 + 3 * b 39
    let watches := filters + 14 * b 40
    let classEntry (i : Nat) : BitVec 16 × Machine.Class :=
      (BitVec.ofNat 16 (fieldAt image (42 + 3 * i) 2),
        match b (42 + 3 * i + 2) with | 0 => .bulk | 1 => .stream | _ => .urgent)
    let filterEntry (i : Nat) : FilterEntry := ⟨match b (filters + 14 * i) with | 0 => .destination | 1 => .type | _ => .appid,
      BitVec.ofNat 48 (fieldAt image (filters + 14 * i + 1) 6), BitVec.ofNat 48 (fieldAt image (filters + 14 * i + 7) 6),
      b (filters + 14 * i + 13) != 0⟩
    let watchEntry (i : Nat) : WatchConfig :=
      let a := watches + 11 * i
      { source := BitVec.ofNat 6 (near 0 62 (b a))
        cls := match b (a + 1) with | 0 => .any | 1 => .urgent | 2 => .stream | _ => .bulk
        appid := BitVec.ofNat 16 (fieldAt image (a + 2) 2), mask := BitVec.ofNat 16 (fieldAt image (a + 4) 2)
        interval := BitVec.ofNat 16 (near 1 65535 (fieldAt image (a + 6) 2))
        allowN := near 1 16 (b (a + 8)), allowM := near 1 16 (b (a + 9)), required := b (a + 10) != 0 }
    let clamps := missed 0 1 255 (b 10) + missed 1 1 15 (b 11) + missed 2 1 255 (b 12) + missed 3 2 255 (b 13) +
      missed 4 1 255 (b 14) + missed 5 1 255 (b 15) + missed 6 1 63 (b 16) + outside 1 255 (b 34) + outside 0 62 (b 33) +
      ((List.range (min 8 (b 39))).map fun i => outside 0 2 (b (42 + 3 * i + 2))).sum +
      ((List.range (min 16 (b 40))).map fun i =>
        outside 0 2 (b (filters + 14 * i)) + outside 0 1 (b (filters + 14 * i + 13))).sum +
      ((List.range (min 32 (b 41))).map fun i =>
        let a := watches + 11 * i
        outside 0 62 (b a) + outside 0 3 (b (a + 1)) + outside 1 65535 (fieldAt image (a + 6) 2) +
          outside 1 16 (b (a + 8)) + outside 1 16 (b (a + 9)) + outside 0 1 (b (a + 10))).sum
    let settings : Settings := {
      nodeNumber := number
      profile := ⟨setting 0 1 255 (b 10) col.checkPeriod, setting 1 1 15 (b 11) col.missLimit,
        setting 2 1 255 (b 12) col.aging, setting 3 2 255 (b 13) col.streakLimit,
        setting 4 1 255 (b 14) col.rollTimeout, setting 5 1 255 (b 15) col.scanWindow,
        setting 6 1 63 (b 16) col.hopLimit, setting 7 0 255 (b 17) col.errorBound,
        setting 8 0 65535 (fieldAt image 18 2) col.goodFloor, setting 9 0 255 (b 20) col.streamAge⟩
      originTag := BitVec.ofNat 32 (fieldAt image 21 4)
      control := if group then 0x020000000000#48 ||| number.setWidth 48 else stored
      controlType := BitVec.ofNat 16 (fieldAt image 31 2)
      timeSource := BitVec.ofNat 6 (if b 33 ≤ 62 then b 33 else 0)
      timePeriod := near 1 255 (b 34)
      hopAllowance := byteAt image 35
      reportPeriod := b 36
      alarmMask := BitVec.ofNat 9 (fieldAt image 37 2)
      autoRoll := b 7 % 2 = 1
      classMap := (List.range (min 8 (b 39))).map classEntry
      filterPass := b 7 / 2 % 2 = 1
      filter := (List.range (min 16 (b 40))).map filterEntry }
    let watch := (List.range (min 32 (b 41))).map watchEntry
    let member := (1 ≤ b 6 ∧ b 6 ≤ 62) ∨ (s.loader.strap ≠ 0 ∧ s.loader.strap ≠ 63)
    ∃ t, exec (.imageReadAttempt read) s = .next (settle t) ∧
      t.loader.profile = BitVec.ofNat 2 sel ∧ t.loader.overrides = BitVec.ofNat 10 (fieldAt image 8 2) ∧
      t.loader.clampCount = min 255 clamps ∧
      t.loader.warnings = { s.loader.warnings with
        badProfile := 3 < b 3, clamped := 0 < clamps, extraEntries := 8 < b 39 ∨ 16 < b 40 ∨ 32 < b 41
        nodeStrapped := ¬ (1 ≤ b 6 ∧ b 6 ≤ 62), badAddress := group } ∧
      (member → t.loader.draft = some ⟨settings, watch, .running⟩ ∧ t.slots = s.slots) ∧
      (¬ member → t.loader.config = some settings ∧ ∀ i, i < 32 → t.slot i = match watch[i]? with
        | some w => { inUse := true, config := w }
        | none => {})

/-- The epoch write-back and the end of LOADING (R108, R118, R130, R141, R178, R179). A byte read, or 15 after the third
failed attempt with EPOCH-READ, plus 1 modulo 16 is the own epoch, which is written; an acknowledged write is polled for
10 ms; and the acknowledged poll, or a failed write or an unanswered polling with EPOCH-WRITE, ends LOADING: the
configuration decided is fixed, the node state set and its item noted, the watch table placed, with the start deadlines
of required slots in RUNNING, and a ring member begins its first check period, report period and, at the time source,
time period. It sends its first CHECK frame and, in RUNNING at the time source, its first TIME frame, each as one entry on
the URGENT queue of each ring port that is not DOWN: neither with both DOWN, and none that the pool refuses. A transaction
ends at its failure. The record of I2C operations, the clauses for a poll after the 10 ms, a failure of the write by a
held SDA, and that the CHECK frame goes first are the model's choice (logs 3, 26, 29, 38). -/
def Obligations.LoadingEndsWithTheEpochWriteBack : Prop :=
  ∀ s : State, s.loader.nodeState = .loading →
    let owed := if s.loader.stopFirst then [BusOp.stop] else []
    let fixed (ops : List BusOp) (stored : Byte) (l : Loader) : Loader := { l with
      storedEpoch := stored, ownEpoch := BitVec.ofNat 4 ((stored.toNat + 1) % 16), phase := .epochWrite
      stopFirst := false, bus := ops ++ owed }
    let member (d : Draft) : Prop := d.next = .running ∨ d.next = .fallback
    let firstFrames (d : Draft) (t : State) : Prop :=
      let source := d.next = .running ∧ d.settings.timeSource ≠ 0 ∧ d.settings.timeSource = d.settings.nodeNumber
      let down (p : Port) := s.isDown p = true
      let bothDown := down .east ∧ down .west
      let header (kind : Byte) : List Byte :=
        [0x03, 0xB7, 0, 0, 0, kind] ++ beBytes 6 d.settings.control.toNat ++ [0xB7, 0xC1]
      let check : List Byte := header 1 ++ beBytes 4 d.settings.originTag.toNat ++ beBytes 4 s.clock.nodeTime.toNat ++
        beBytes 2 (s.check.number + 1).toNat
      let time : List Byte := header 3 ++ zeros 4
      let frame (content : List Byte) : Buffer :=
        ⟨if down .east ∨ down .west then 1 else 2, content ++ zeros (60 - content.length), false⟩
      let entry (buf : Nat) (k : Kind) (seq : Seq) : Entry :=
        ⟨buf, .originated k .urgent seq s.loader.ownEpoch d.settings.nodeNumber, s.clock.timerUnits⟩
      let first := s.pool.take.1
      let checkEntry := entry first .check (s.check.number + 1)
      let joined (l : List Entry) : Prop := ∀ p : RingPort, s.isDown p.port = false →
        t.eg p.port = { s.eg p.port with urgent := (s.eg p.port).urgent ++ l }
      let room (n : Nat) : Prop := ∀ p : RingPort, s.isDown p.port = false → (s.eg p.port).urgent.length + n ≤ 32
      let noTime := t.tagger = s.tagger ∧ t.time.sent = s.time.sent
      let sent (p : Port) (l : CheckLane) : CheckLane :=
        { l with sent := if down p ∨ s.free = 0 then l.sent else raise l.sent }
      t.check = { s.check with
        number := t.check.number, period := t.check.period
        lanes := ⟨sent .east s.check.lanes.e, sent .west s.check.lanes.w⟩ } ∧
      (bothDown → t.pool = s.pool ∧ noTime) ∧
      (¬ bothDown → s.free = 0 → t.egress = s.egress ∧ noTime ∧
        t.pool = { s.pool with refused := t.pool.refused } ∧
        (source → t.pool.refused = raise (raise s.pool.refused)) ∧ (¬ source → t.pool.refused = raise s.pool.refused)) ∧
      (¬ bothDown → 1 ≤ s.free → s.pool.wf = true → room 1 →
        (¬ source ∨ s.free = 1 → joined [checkEntry] ∧ noTime ∧ t.buffer first = frame check ∧
          (source → t.pool.refused = raise s.pool.refused) ∧ (¬ source → t.pool.refused = s.pool.refused)) ∧
        (source → 2 ≤ s.free → room 2 → ∃ second, second ≠ first ∧ s.pool.get? second = none ∧
          joined [checkEntry, entry second .time s.tagger.seq] ∧
          t.buffer first = frame check ∧ t.buffer second = frame time ∧ t.pool.refused = s.pool.refused ∧
          t.tagger = { s.tagger with seq := s.tagger.seq + 1 } ∧ t.time.sent = raise s.time.sent))
    let ends (d : Draft) (t : State) : Prop :=
      t.loader.nodeState = d.next ∧ t.loader.config = some d.settings ∧ t.loader.phase = .idle ∧
      t.loader.ownEpoch = s.loader.ownEpoch ∧ t.ports = s.ports ∧ t.sources = s.sources ∧
      (∀ i, i < 32 → t.slot i = match d.watch[i]? with
        | some w =>
          let deadline := Timer.mk s.clock.timerUnits (w.allowN * (w.interval.toNat * 10))
          { inUse := true, config := w
            deadline := if d.next = .running ∧ w.required = true then some deadline else none }
        | none => {}) ∧
      (d.next = .running ∨ d.next = .fallback → t.check.number = s.check.number + 1 ∧
        t.check.period = some ⟨s.clock.timerUnits, d.settings.profile.checkPeriod * 100⟩ ∧
        t.report.period = if d.settings.reportPeriod = 0 then none
          else some ⟨s.clock.timerUnits, d.settings.reportPeriod * 10000⟩) ∧
      (d.next = .running → d.settings.timeSource ≠ 0 → d.settings.timeSource = d.settings.nodeNumber →
        t.time.period = some ⟨s.clock.timerUnits, d.settings.timePeriod * 1000⟩) ∧
      (d.next ≠ .running ∨ d.settings.timeSource = 0 ∨ d.settings.timeSource ≠ d.settings.nodeNumber →
        t.time = s.time) ∧
      (d.next ≠ .reset → t.report = { (note .nodeState s).report with period := t.report.period }) ∧
      t.roll = s.roll ∧ t.clock = s.clock ∧
      (∀ p, p = .tap ∨ s.isDown p = true → t.eg p = s.eg p) ∧
      (¬ member d → t.report.period = s.report.period ∧ t.check = s.check ∧ t.pool = s.pool ∧ t.egress = s.egress ∧
        t.tagger = s.tagger) ∧
      (member d → firstFrames d t)
    let addressing : List BusOp := [.start, .send 0xAE, .send 0x07, .send 0xFF, .start, .send 0xAF]
    epochReadOps (.failed .sdaLow) = [.stop] ∧
    epochReadOps (.failed (.noAck 0)) = [.start, .send 0xAE, .stop] ∧
    epochReadOps (.failed (.noAck 1)) = [.start, .send 0xAE, .send 0x07, .stop] ∧
    epochReadOps (.failed (.noAck 2)) = [.start, .send 0xAE, .send 0x07, .send 0xFF, .stop] ∧
    epochReadOps (.failed .sdaLowAgain) = [.start, .send 0xAE, .send 0x07, .send 0xFF, .stop] ∧
    epochReadOps (.failed (.noAck 3)) = addressing ++ [.stop] ∧
    (∀ failed, s.loader.phase = .epochRead failed →
      (∀ b, exec (.epochReadAttempt (.byte b)) s = .next (settle { s with
        loader := fixed (addressing ++ [.read 1 false, .stop]) b s.loader })) ∧
      ∀ f : BusFailure,
        (failed < 2 → exec (.epochReadAttempt (.failed f)) s = .next (settle { s with loader := { s.loader with
          phase := .epochRead (failed + 1), stopFirst := false, bus := epochReadOps (.failed f) ++ owed } })) ∧
        (2 ≤ failed → exec (.epochReadAttempt (.failed f)) s = .next (settle { s with
          loader := fixed (epochReadOps (.failed f)) 15
            { s.loader with warnings := { s.loader.warnings with epochRead := true } } }))) ∧
    (s.loader.phase = .epochWrite →
      let e : Byte := s.loader.ownEpoch.setWidth 8
      let write : List BusOp := [.start, .send 0xAE, .send 0x07, .send 0xFF, .send e]
      exec (.epochWrite none) s = .next (settle { s with loader := { s.loader with
        phase := .epochPoll, pollTimer := some ⟨s.clock.timerUnits, 1000⟩, stopFirst := false
        bus := write ++ [.stop] ++ owed } }) ∧
      cutAt .sdaLow write = [.stop] ∧ cutAt (.noAck 0) write = [.start, .send 0xAE, .stop] ∧
      cutAt (.noAck 1) write = [.start, .send 0xAE, .send 0x07, .stop] ∧
      cutAt (.noAck 2) write = [.start, .send 0xAE, .send 0x07, .send 0xFF, .stop] ∧
      cutAt (.noAck 3) write = write ++ [.stop] ∧
      ∀ f d, s.loader.draft = some d → ∃ t, exec (.epochWrite (some f)) s = .next (settle t) ∧ ends d t ∧
        t.loader.bus = cutAt f write ∧ t.loader.warnings = { s.loader.warnings with epochWrite := true }) ∧
    (s.loader.phase = .epochPoll →
      exec (.epochPoll false) s = .next (settle { s with loader := { s.loader with
        stopFirst := false, bus := [.start, .send 0xAE, .stop] ++ owed } }) ∧
      (s.clock.due s.loader.pollTimer = false → exec .epochPollTimeout s = .next (settle s)) ∧
      ∀ d, s.loader.draft = some d →
        (∃ t, exec (.epochPoll true) s = .next (settle t) ∧ ends d t ∧ t.loader.warnings = s.loader.warnings ∧
          t.loader.bus = [.start, .send 0xAE, .stop]) ∧
        (s.clock.due s.loader.pollTimer = true → ∃ t, exec .epochPollTimeout s = .next (settle t) ∧ ends d t ∧
          t.loader.warnings = { s.loader.warnings with epochWrite := true }))

/-- What the loader decides and fixes (R173 to R180): every step keeps its law, that the configuration lies within its
ranges; from the end of LOADING to the next start nothing of it changes; and out of the ring, in RESET, LOADING and
TRANSIT, the blocks of a ring member keep their start values. -/
def Obligations.TheConfigurationIsFixedForTheRun : Prop :=
  ∀ s t : State, step s = .next t →
    (s.LoaderLaw → t.LoaderLaw) ∧ (s.OutLaw → t.OutLaw) ∧
    (s.loader.nodeState ≠ .reset → s.loader.nodeState ≠ .loading → s.sameRun t)

/-! ## Chapter 10: reports, commands and alarm lines -/

/-- NODE_COMMAND (R180, R181): the report unit reads the oldest frame handed to it and releases its buffer. A frame of
another type than the control type is ignored, and so is, in TRANSIT, another command than RESTART; with 2 commands
queued the command is dropped; else it joins the tail with its code, page and source address. -/
def Obligations.NodeCommandsJoinTheQueue : Prop :=
  ∀ (b : Nat) (rest : List Nat) (s : State), s.commandIn = b :: rest →
    let f := (s.buffer b).bytes
    let ignored := typeField f ≠ s.cfg.controlType ∨
      (s.loader.nodeState = .transit ∧ byteAt f (typeOffset f + 2) ≠ 5)
    let after (r : ReportUnit) : State := { s with commandIn := rest, pool := s.pool.release b, report := r }
    (ignored → exec .nodeCommand s = .next (settle (after { s.report with
      counters := { s.report.counters with ignored := raise s.report.counters.ignored } }))) ∧
    (¬ ignored → 2 ≤ s.report.queue.length → exec .nodeCommand s = .next (settle (after { s.report with
      counters := { s.report.counters with cmdDrop := raise s.report.counters.cmdDrop } }))) ∧
    (¬ ignored → s.report.queue.length < 2 → exec .nodeCommand s = .next (settle (after { s.report with
      queue := s.report.queue ++ [{ code := byteAt f (typeOffset f + 2), page := byteAt f (typeOffset f + 3)
                                    source := BitVec.ofNat 48 (fieldAt f 6 6) }]
      counters := { s.report.counters with commands := raise s.report.counters.commands } })))

/-- REPORT, ZERO, RESTART and BADCOMMAND (R182, R183, R195). Each, at the head of the command queue, is carried out with
its result and its reply composed. With a buffer to take, `composeReply` makes one LOCAL entry on the tap's BULK queue,
whose buffer holds R195's header and body, padded: the page data (R184, R196: `pageData`) of the state in which the
buffer has been taken, none for BADPAGE. The result's counter rises, and the command leaves the queue, but for RESTART.
An entry refused by a DOWN tap port or a full queue is not composed again. Refused a buffer, the command stays with its
result and the hold starts. ZERO has set the counters of every block to 0, each maximum latency to its last and the
low-water mark to the free count, and nothing else. The moment at which the content is read, and the restart of a running
hold, are read by inference (logs 13, 14). -/
def Obligations.CommandsAreAnswered : Prop :=
  let reply (k : Command) (r : CommandResult) (u : State) : List Byte :=
    let page : Byte := if k.code = 1 then k.page else 0
    let data := if r = .badPage then [] else pageData page.toNat u
    beBytes 6 k.source.toNat ++ beBytes 6 u.cfg.control.toNat ++ beBytes 2 u.cfg.controlType.toNat ++ [(0x80 : Byte)] ++
      beBytes 4 u.clock.nodeTime.toNat ++
      ([k.code, (match r with | .done => 0 | .busy => 1 | .badPage => 2 | .badCommand => 3), page] : List Byte) ++
      beBytes 2 data.length ++ data
  (∀ (k : Command) (rest : List Command) (r : CommandResult) (s : State), s.report.queue = k :: rest →
    k.result = some r → k.replied = false → s.pool.wf = true →
    let t := composeReply s
    let joins := s.isDown .tap = false ∧ (s.eg .tap).bulk.length < 96
    let content := reply k r { s with pool := s.pool.take.2 }
    (49 ≤ s.free →
      t.report = { s.report with
        queue := if k.code = 5 then { k with replied := true } :: rest else rest
        counters := match r with
          | .done => { s.report.counters with done := raise s.report.counters.done }
          | .busy => { s.report.counters with busy := raise s.report.counters.busy }
          | .badPage => { s.report.counters with badPage := raise s.report.counters.badPage }
          | .badCommand => { s.report.counters with badCommand := raise s.report.counters.badCommand }
        restartDue := s.report.restartDue || (k.code == 5 && (s.isDown .tap || decide (96 ≤ (s.eg .tap).bulk.length))) } ∧
      (joins → t.free + 1 = s.free ∧
        t.eg .tap = { s.eg .tap with
          bulk := (s.eg .tap).bulk ++ [⟨s.pool.take.1, .localFrame (k.code == 5), s.clock.timerUnits⟩] } ∧
        t.buffer s.pool.take.1 = ⟨1, content ++ zeros (60 - content.length), false⟩) ∧
      (¬ joins → t.free = s.free ∧ (t.eg .tap).bulk = (s.eg .tap).bulk) ∧
      t.eg .east = s.eg .east ∧ t.eg .west = s.eg .west ∧ t.ports = s.ports ∧ t.sources = s.sources ∧
      t.slots = s.slots ∧ t.check = s.check ∧ t.roll = s.roll ∧ t.time = s.time ∧ t.tagger = s.tagger ∧
      t.filter = s.filter ∧ t.repeater = s.repeater ∧ t.loader = s.loader ∧ t.clock = s.clock) ∧
    (s.free < 49 → t = { s with
      pool := { s.pool with refused := raise s.pool.refused }
      report := { s.report with hold := some ⟨s.clock.timerUnits, 1000⟩ } })) ∧
  ∀ (k : Command) (rest : List Command) (s : State), s.report.queue = k :: rest → k.result = none →
    let answered (r : CommandResult) (u : State) : State :=
      composeReply { u with report := { u.report with queue := { k with result := some r } :: rest } }
    let lane (l : CheckLane) : CheckLane := { l with
      sent := 0, returns := 0, lateCheck := 0, breaks := 0
      latency := if l.latency.present = true then { l.latency with max := l.latency.last } else l.latency }
    (k.code = 1 → k.page.toNat ≤ 9 → exec .report s = .next (settle (answered .done s))) ∧
    (k.code = 1 → 10 ≤ k.page.toNat → exec .report s = .next (settle (answered .badPage s))) ∧
    (k.code = 5 → exec .restart s = .next (settle (answered .done s))) ∧
    (k.code = 0 ∨ 6 ≤ k.code.toNat → exec .badCommand s = .next (settle (answered .badCommand s))) ∧
    (k.code = 4 → ∃ z : State, exec .zero s = .next (settle (answered .done z)) ∧
      z.tagger = { s.tagger with originated := 0, single := 0, isolated := 0 } ∧
      z.filter = { s.filter with clashCount := 0, counters := ⟨{}, {}⟩ } ∧
      z.pool = { s.pool with low := s.free, refused := 0 } ∧
      z.check = { s.check with lanes := ⟨lane s.check.lanes.e, lane s.check.lanes.w⟩ } ∧
      z.time = { s.time with loads := 0, sent := 0 } ∧ z.roll = { s.roll with counters := {} } ∧
      z.report = { s.report with counters := {} } ∧
      (∀ p, z.port p = { s.port p with counters := {} } ∧ z.eg p = { s.eg p with counters := {} }) ∧
      (∀ p, z.dir p = { s.dir p with repeated := 0, lost := 0 }) ∧
      (∀ n, 1 ≤ n → n ≤ 62 → z.record n = { s.record n with counters := {} }) ∧
      (∀ i, i < 32 → z.slot i = { s.slot i with arrivals := 0, late := 0, lost := 0, laneDown := 0 }) ∧
      z.clock = s.clock ∧ z.pins = s.pins ∧ z.loader = s.loader ∧ z.handed = s.handed ∧ z.rollIn = s.rollIn ∧
      z.commandIn = s.commandIn ∧ z.pending = s.pending)

/-- The report unit's frames and timers (R186, R187, R195). Every command but POWER_ON and RST_FALL ends with `settle`. In
a ring member with the hold run out it composes one report frame if something waits: of the oldest roll notice, else, for
the change list or the period-due flag, a node report, which empties the list and clears MORE and the flag. With a buffer
to take, the frame is one LOCAL entry on the tap's BULK queue, with R195's header and body, padded, of the state in which
the buffer has been taken; REPORTS rises and the 10 ms hold restarts. Refused, what waited stays, POOL rises and the hold
restarts. With nothing waiting the hold stays run out; while it runs, or out of the ring, nothing is composed. The report
period's expiry sets the period-due flag and rearms the timer; the hold's expiry composes first a reply that waits and
then what waits to be reported, each take by the free count left. A start that a RESTART reply calls for comes instead
(`EndOfRestartReplyStartsTheNode`). The moments of composing and reading are read by inference (logs 12, 13), and the
clauses for a timer that is not due are the model's choice (log 3). -/
def Obligations.ReportTimersSendOneReport : Prop :=
  let header (code : Byte) (u : State) : List Byte :=
    [0x03, 0xB7, 0, 0, 0, 0x10] ++ beBytes 6 u.cfg.control.toNat ++ beBytes 2 u.cfg.controlType.toNat ++ [code] ++
      beBytes 4 u.clock.nodeTime.toNat
  let flag (b : Bool) : Byte := if b then 1 else 0
  let byte (n : Nat) : Byte := BitVec.ofNat 8 n
  let ofNotice (n : Notice) (u : State) : List Byte := match n with
    | .begins number cause e w =>
      let sending (x : LaneSend) : Byte := match x with | .sent => 0 | .ownPortDown => 1 | .refused => 2
      header 0x82 u ++ [number, match cause with | .command => 0 | .auto => 1 | .again => 2, sending e, sending w]
    | .ends number outcome eastEnd westEnd =>
      header 0x83 u ++ [number, outcome.code, eastEnd.getD 0, westEnd.getD 0]
  let page0 (u : State) : List Byte :=
    [u.node.setWidth 8, u.loader.nodeState.code, u.loader.cause.code, u.loader.imageStatus.code,
      byte u.loader.attempts, u.loader.profile.setWidth 8] ++ beBytes 2 u.loader.overrides.toNat ++
    [u.loader.warnings.code, byte u.loader.clampCount, u.loader.strap.setWidth 8, u.loader.storedEpoch,
      u.loader.ownEpoch.setWidth 8] ++ beBytes 4 u.clock.nodeTime.toNat ++
    [u.check.ring.code, u.check.lanes.e.state.code, u.check.lanes.w.state.code, (u.port .east).state.code,
      (u.port .west).state.code, (u.port .tap).state.code, (u.port .east).ind.code, (u.port .west).ind.code,
      (u.port .tap).ind.code, flag u.filter.clash, byte (u.sources.toList.countP fun r => r.live),
      byte (u.sources.toList.countP fun r => r.live && r.path != .both),
      byte (u.slots.toList.countP fun w => w.status == .lost),
      byte (u.slots.toList.countP fun w => w.lanes.e.status == .down || w.lanes.w.status == .down)] ++
    beBytes 2 u.free ++ [flag u.roll.running, u.roll.map.outcome.code] ++ beBytes 2 u.activeConditions.toNat ++
    beBytes 2 u.cfg.alarmMask.toNat ++
    [byte ((if u.alarmLevel then 1 else 0) + (if u.healthyLevel then 2 else 0)), byte u.report.changes.length,
      flag u.report.more]
  let record (r : Option LaneRecord) : List Byte := match r with
    | none => zeros 7
    | some r => [1] ++ beBytes 2 r.seq.toNat ++ beBytes 4 r.arrival.toNat
  let item (u : State) (i : Item) : List Byte :=
    let state : List Byte := match i with
      | .port p => [0, match p with | .east => 0 | .west => 1 | .tap => 2, (u.port p).state.code, (u.port p).ind.code]
      | .clash => [1, 0, flag u.filter.clash]
      | .source n => [2, byte n, flag (u.record n).live, (u.record n).epoch.setWidth 8, (u.record n).path.code] ++
          beBytes 4 (u.record n).counters.restarts.toNat ++ beBytes 4 (u.record n).counters.resyncs.toNat
      | .slot n => [3, byte n, (u.slot n).status.code, byte (u.slot n).miss, (u.slot n).lanes.e.status.code,
          (u.slot n).lanes.w.status.code] ++ record (u.slot n).lanes.e.record ++ record (u.slot n).lanes.w.record
      | .lane x => [4, match x with | .e => 0 | .w => 1, (u.check.lanes.get x).state.code, byte (u.check.lanes.get x).miss]
      | .ring => [5, 0, u.check.ring.code]
      | .roll => [6, 0, flag u.roll.running, u.roll.number, u.roll.map.outcome.code, u.roll.map.eastEnd.getD 0,
          u.roll.map.westEnd.getD 0]
      | .nodeState => [7, 0, u.loader.nodeState.code, u.loader.warnings.code, byte u.loader.clampCount]
    state ++ zeros (20 - state.length)
  let ofNode (u : State) : List Byte :=
    header 0x81 u ++ page0 u ++ [flag u.report.more, byte u.report.changes.length] ++ u.report.changes.flatMap (item u)
  let waits (s : State) : Prop := s.report.notices ≠ [] ∨ s.report.changes ≠ [] ∨ s.report.periodDue = true
  let lines (r q : ReportUnit) : Prop := q = { r with conditions := q.conditions, alarm := q.alarm, healthy := q.healthy }
  let sends (s t : State) (content : List Byte) (left : ReportUnit) : Prop :=
    let joins := s.isDown .tap = false ∧ (s.eg .tap).bulk.length < 96
    lines { left with
      hold := some ⟨s.clock.timerUnits, 1000⟩
      counters := { s.report.counters with reports := raise s.report.counters.reports } } t.report ∧
    (joins → t.free + 1 = s.free ∧
      t.eg .tap = { s.eg .tap with
        bulk := (s.eg .tap).bulk ++ [⟨s.pool.take.1, .localFrame false, s.clock.timerUnits⟩] } ∧
      t.buffer s.pool.take.1 = ⟨1, content ++ zeros (60 - content.length), false⟩) ∧
    (¬ joins → t.free = s.free ∧ (t.eg .tap).bulk = (s.eg .tap).bulk) ∧
    t.eg .east = s.eg .east ∧ t.eg .west = s.eg .west ∧ t.ports = s.ports ∧ t.sources = s.sources ∧
    t.slots = s.slots ∧ t.check = s.check ∧ t.roll = s.roll ∧ t.time = s.time ∧ t.tagger = s.tagger ∧
    t.filter = s.filter ∧ t.repeater = s.repeater ∧ t.loader = s.loader ∧ t.clock = s.clock
  (∀ (c : Instr) (s : State), c = .rstFall ∨ (∃ r e w t x, c = .powerOn r e w t x) ∨
    ∃ u, exec c s = .next (settle u)) ∧
  (∀ s : State, s.report.restartDue = false →
    let t := settle s
    let u : State := { s with pool := s.pool.take.2 }
    (s.member = false ∨ s.report.hold ≠ none ∨ ¬ waits s → t = { s with report := t.report } ∧ lines s.report t.report) ∧
    (s.member = true → s.report.hold = none → s.pool.wf = true → 49 ≤ s.free →
      (∀ n rest, s.report.notices = n :: rest → sends s t (ofNotice n u) { s.report with notices := rest }) ∧
      (s.report.notices = [] → s.report.changes ≠ [] ∨ s.report.periodDue = true →
        sends s t (ofNode u) { s.report with changes := [], more := false, periodDue := false })) ∧
    (s.member = true → s.report.hold = none → waits s → s.free < 49 →
      t = { s with pool := { s.pool with refused := raise s.pool.refused }, report := t.report } ∧
      lines { s.report with hold := some ⟨s.clock.timerUnits, 1000⟩ } t.report)) ∧
  ∀ s : State,
    (s.clock.due s.report.period = true → exec .reportPeriodExpiry s = .next (settle { s with report := { s.report with
      periodDue := true
      period := s.report.period.map fun w =>
        ⟨w.start + BitVec.ofNat 32 w.length, s.cfg.reportPeriod * 10000⟩ } })) ∧
    (s.clock.due s.report.period = false → exec .reportPeriodExpiry s = .next (settle s)) ∧
    (s.clock.due s.report.hold = true → s.report.restartDue = false →
      let run : State := { s with report := { s.report with hold := none } }
      ((∀ k, s.report.queue.head? = some k → k.result = none ∨ k.replied = true) →
        exec .reportHoldExpiry s = .next (settle run)) ∧
      (∀ k rest r, s.report.queue = k :: rest → k.result = some r → k.replied = false →
        (49 ≤ s.free → exec .reportHoldExpiry s = .next (settle (composeReply run))) ∧
        (s.free < 49 → exec .reportHoldExpiry s = .next (settle { s with
          pool := { s.pool with
            refused := raise (if s.member = true ∧ waits s then raise s.pool.refused else s.pool.refused) }
          report := { s.report with hold := some ⟨s.clock.timerUnits, 1000⟩ } })))) ∧
    (s.clock.due s.report.hold = false → exec .reportHoldExpiry s = .next (settle s))

/-- After every command the lines follow their causes (R188, R189): each of the ten conditions is active exactly while its
cause holds, from the end of LOADING on; ALARM is asserted exactly while an unmasked one is active, CONFIG never masked;
and HEALTHY exactly in RUNNING with the ring CLOSED, both ring ports UP and ALARM deasserted. -/
def Obligations.CommandsEndWithTheLines : Prop :=
  ∀ (c : Instr) (s t : State), exec c s = .next t →
    let loaded := t.loader.nodeState = .running ∨ t.loader.nodeState = .fallback ∨ t.loader.nodeState = .transit
    let ring (f : PortUnit → Bool) : Prop := f (t.port .east) = true ∨ f (t.port .west) = true
    let active (i : Nat) : Prop := t.report.conditions.getLsbD i = true
    (active 0 ↔ loaded ∧ ring fun u => u.state == .down) ∧
    (active 1 ↔ loaded ∧ (ring (fun u => u.state == .degraded) ∨ (t.port .tap).state = .degraded)) ∧
    (active 2 ↔ loaded ∧ t.check.ring = .opened) ∧
    (active 3 ↔ loaded ∧ ring fun u => u.ind.foreign) ∧
    (active 4 ↔ loaded ∧ ring fun u => u.ind.crossed) ∧
    (active 5 ↔ loaded ∧ t.filter.clash = true) ∧
    (active 6 ↔ loaded ∧ ∃ w ∈ t.slots.toList, w.status = .lost) ∧
    (active 7 ↔ loaded ∧ ((∃ w ∈ t.slots.toList, w.lanes.e.status = .down ∨ w.lanes.w.status = .down) ∨
      ∃ r ∈ t.sources.toList, r.live = true ∧ r.path ≠ .both)) ∧
    (active 8 ↔ loaded ∧ (ring (fun u => u.ind.pool) ∨ (t.port .tap).ind.pool = true)) ∧
    (active 9 ↔ loaded ∧ (t.loader.nodeState ≠ .running ∨ t.loader.warnings.held = true)) ∧
    (t.report.alarm = true ↔ ∃ i, i < 10 ∧ active i ∧ (i = 9 ∨ t.cfg.alarmMask.getLsbD i = false)) ∧
    (t.report.healthy = true ↔ t.loader.nodeState = .running ∧ t.check.ring = .closed ∧
      (t.port .east).state = .up ∧ (t.port .west).state = .up ∧ t.report.alarm = false)
end

