-- ==== Sys2Proof/Laws/State.lean ====
section
/-! SUPPORT. The small lemmas of the state: selecting a port, ring port or lane after an update, and one lemma for
each field of State that an update leaves, true by unfolding. No later proof need unfold a record update. -/

namespace Sys2Proof.Machine

/-! ## Selecting after setting -/

section Select
variable {α : Type}

@[simp] theorem PerPort.get_set (x : PerPort α) (p q : Port) (a : α) :
    (x.set p a).get q = if q = p then a else x.get q := by cases p <;> cases q <;> rfl

@[simp] theorem PerRing.get_set (x : PerRing α) (p q : RingPort) (a : α) :
    (x.set p a).get q = if q = p then a else x.get q := by cases p <;> cases q <;> rfl

@[simp] theorem PerLane.get_set (x : PerLane α) (l m : Lane) (a : α) :
    (x.set l a).get m = if m = l then a else x.get m := by cases l <;> cases m <;> rfl

theorem PerPort.ext_get {x y : PerPort α} (h : ∀ p, x.get p = y.get p) : x = y := by
  cases x; cases y; simpa [PerPort.get] using And.intro (h .east) (And.intro (h .west) (h .tap))

@[simp] theorem PerPort.set_get (x : PerPort α) (p : Port) : x.set p (x.get p) = x := by cases p <;> rfl

@[simp] theorem PerPort.set_set (x : PerPort α) (p : Port) (a b : α) : (x.set p a).set p b = x.set p b := by
  cases p <;> rfl

@[simp] theorem PerRing.set_set (x : PerRing α) (p : RingPort) (a b : α) : (x.set p a).set p b = x.set p b := by
  cases p <;> rfl

end Select

@[simp] theorem RingPort.port_ring (r : RingPort) : r.port.ring? = some r := by cases r <;> rfl

theorem Port.ring_port {p : Port} {r : RingPort} (h : p.ring? = some r) : p = r.port := by
  cases p <;> simp_all [Port.ring?] <;> subst h <;> rfl

@[simp] theorem RingPort.opposite_opposite (r : RingPort) : r.opposite.opposite = r := by cases r <;> rfl

theorem RingPort.opposite_ne (r : RingPort) : r.opposite ≠ r := by cases r <;> decide

@[simp] theorem RingPort.port_inj {p q : RingPort} : p.port = q.port ↔ p = q := by cases p <;> cases q <;> decide

/-! ## A part after it was replaced -/

section Parts
variable (s : State)

@[simp] theorem port_setPort (p q : Port) (u : PortUnit) :
    (s.setPort p u).port q = if q = p then u else s.port q := PerPort.get_set ..

@[simp] theorem eg_setEg (p q : Port) (e : Egress) :
    (s.setEg p e).eg q = if q = p then e else s.eg q := PerPort.get_set ..

/-- The arbiter's mark is an update of its scheduler alone. -/
@[simp] theorem markChosen_eq (p : Port) : markChosen p s = s.setEg p { s.eg p with chosen := true } := rfl

/-- What a transaction's end leaves of the loader. -/
@[simp] theorem endTransaction_eq (ops : List BusOp) :
    endTransaction ops s = { s with loader := { s.loader with bus := ops } } := rfl

@[simp] theorem dir_setDir (p q : RingPort) (d : Direction) :
    (s.setDir p d).dir q = if q = p then d else s.dir q := PerRing.get_set ..

theorem port_countPort (p q : Port) (f : PortCounters → PortCounters) :
    (s.countPort p f).port q = if q = p then { s.port p with counters := f (s.port p).counters } else s.port q :=
  port_setPort ..

theorem eg_countEg (p q : Port) (f : EgressCounters → EgressCounters) :
    (s.countEg p f).eg q = if q = p then { s.eg p with counters := f (s.eg p).counters } else s.eg q :=
  eg_setEg ..

end Parts

/-! ## Fields that an update leaves -/

section Fields
variable (s : State)

@[simp] theorem setPort_pending (p : Port) (u : PortUnit) : (s.setPort p u).pending = s.pending := rfl
@[simp] theorem setPort_pins (p : Port) (u : PortUnit) : (s.setPort p u).pins = s.pins := rfl
@[simp] theorem setPort_clock (p : Port) (u : PortUnit) : (s.setPort p u).clock = s.clock := rfl
@[simp] theorem setPort_loader (p : Port) (u : PortUnit) : (s.setPort p u).loader = s.loader := rfl
@[simp] theorem setPort_handed (p : Port) (u : PortUnit) : (s.setPort p u).handed = s.handed := rfl
@[simp] theorem setPort_rollIn (p : Port) (u : PortUnit) : (s.setPort p u).rollIn = s.rollIn := rfl
@[simp] theorem setPort_commandIn (p : Port) (u : PortUnit) : (s.setPort p u).commandIn = s.commandIn := rfl
@[simp] theorem setPort_tagger (p : Port) (u : PortUnit) : (s.setPort p u).tagger = s.tagger := rfl
@[simp] theorem setPort_filter (p : Port) (u : PortUnit) : (s.setPort p u).filter = s.filter := rfl
@[simp] theorem setPort_sources (p : Port) (u : PortUnit) : (s.setPort p u).sources = s.sources := rfl
@[simp] theorem setPort_pool (p : Port) (u : PortUnit) : (s.setPort p u).pool = s.pool := rfl
@[simp] theorem setPort_egress (p : Port) (u : PortUnit) : (s.setPort p u).egress = s.egress := rfl
@[simp] theorem setPort_repeater (p : Port) (u : PortUnit) : (s.setPort p u).repeater = s.repeater := rfl
@[simp] theorem setPort_slots (p : Port) (u : PortUnit) : (s.setPort p u).slots = s.slots := rfl
@[simp] theorem setPort_check (p : Port) (u : PortUnit) : (s.setPort p u).check = s.check := rfl
@[simp] theorem setPort_time (p : Port) (u : PortUnit) : (s.setPort p u).time = s.time := rfl
@[simp] theorem setPort_roll (p : Port) (u : PortUnit) : (s.setPort p u).roll = s.roll := rfl
@[simp] theorem setPort_report (p : Port) (u : PortUnit) : (s.setPort p u).report = s.report := rfl

@[simp] theorem setEg_pending (p : Port) (e : Egress) : (s.setEg p e).pending = s.pending := rfl
@[simp] theorem setEg_pins (p : Port) (e : Egress) : (s.setEg p e).pins = s.pins := rfl
@[simp] theorem setEg_clock (p : Port) (e : Egress) : (s.setEg p e).clock = s.clock := rfl
@[simp] theorem setEg_loader (p : Port) (e : Egress) : (s.setEg p e).loader = s.loader := rfl
@[simp] theorem setEg_ports (p : Port) (e : Egress) : (s.setEg p e).ports = s.ports := rfl
@[simp] theorem setEg_handed (p : Port) (e : Egress) : (s.setEg p e).handed = s.handed := rfl
@[simp] theorem setEg_rollIn (p : Port) (e : Egress) : (s.setEg p e).rollIn = s.rollIn := rfl
@[simp] theorem setEg_commandIn (p : Port) (e : Egress) : (s.setEg p e).commandIn = s.commandIn := rfl
@[simp] theorem setEg_tagger (p : Port) (e : Egress) : (s.setEg p e).tagger = s.tagger := rfl
@[simp] theorem setEg_filter (p : Port) (e : Egress) : (s.setEg p e).filter = s.filter := rfl
@[simp] theorem setEg_sources (p : Port) (e : Egress) : (s.setEg p e).sources = s.sources := rfl
@[simp] theorem setEg_pool (p : Port) (e : Egress) : (s.setEg p e).pool = s.pool := rfl
@[simp] theorem setEg_repeater (p : Port) (e : Egress) : (s.setEg p e).repeater = s.repeater := rfl
@[simp] theorem setEg_slots (p : Port) (e : Egress) : (s.setEg p e).slots = s.slots := rfl
@[simp] theorem setEg_check (p : Port) (e : Egress) : (s.setEg p e).check = s.check := rfl
@[simp] theorem setEg_time (p : Port) (e : Egress) : (s.setEg p e).time = s.time := rfl
@[simp] theorem setEg_roll (p : Port) (e : Egress) : (s.setEg p e).roll = s.roll := rfl
@[simp] theorem setEg_report (p : Port) (e : Egress) : (s.setEg p e).report = s.report := rfl

@[simp] theorem setDir_pending (p : RingPort) (d : Direction) : (s.setDir p d).pending = s.pending := rfl
@[simp] theorem setDir_pins (p : RingPort) (d : Direction) : (s.setDir p d).pins = s.pins := rfl
@[simp] theorem setDir_clock (p : RingPort) (d : Direction) : (s.setDir p d).clock = s.clock := rfl
@[simp] theorem setDir_loader (p : RingPort) (d : Direction) : (s.setDir p d).loader = s.loader := rfl
@[simp] theorem setDir_ports (p : RingPort) (d : Direction) : (s.setDir p d).ports = s.ports := rfl
@[simp] theorem setDir_handed (p : RingPort) (d : Direction) : (s.setDir p d).handed = s.handed := rfl
@[simp] theorem setDir_rollIn (p : RingPort) (d : Direction) : (s.setDir p d).rollIn = s.rollIn := rfl
@[simp] theorem setDir_commandIn (p : RingPort) (d : Direction) : (s.setDir p d).commandIn = s.commandIn := rfl
@[simp] theorem setDir_tagger (p : RingPort) (d : Direction) : (s.setDir p d).tagger = s.tagger := rfl
@[simp] theorem setDir_filter (p : RingPort) (d : Direction) : (s.setDir p d).filter = s.filter := rfl
@[simp] theorem setDir_sources (p : RingPort) (d : Direction) : (s.setDir p d).sources = s.sources := rfl
@[simp] theorem setDir_pool (p : RingPort) (d : Direction) : (s.setDir p d).pool = s.pool := rfl
@[simp] theorem setDir_egress (p : RingPort) (d : Direction) : (s.setDir p d).egress = s.egress := rfl
@[simp] theorem setDir_slots (p : RingPort) (d : Direction) : (s.setDir p d).slots = s.slots := rfl
@[simp] theorem setDir_check (p : RingPort) (d : Direction) : (s.setDir p d).check = s.check := rfl
@[simp] theorem setDir_time (p : RingPort) (d : Direction) : (s.setDir p d).time = s.time := rfl
@[simp] theorem setDir_roll (p : RingPort) (d : Direction) : (s.setDir p d).roll = s.roll := rfl
@[simp] theorem setDir_report (p : RingPort) (d : Direction) : (s.setDir p d).report = s.report := rfl

@[simp] theorem setRecord_pending (n : Nat) (r : SourceRecord) : (s.setRecord n r).pending = s.pending := rfl
@[simp] theorem setRecord_pins (n : Nat) (r : SourceRecord) : (s.setRecord n r).pins = s.pins := rfl
@[simp] theorem setRecord_clock (n : Nat) (r : SourceRecord) : (s.setRecord n r).clock = s.clock := rfl
@[simp] theorem setRecord_loader (n : Nat) (r : SourceRecord) : (s.setRecord n r).loader = s.loader := rfl
@[simp] theorem setRecord_ports (n : Nat) (r : SourceRecord) : (s.setRecord n r).ports = s.ports := rfl
@[simp] theorem setRecord_handed (n : Nat) (r : SourceRecord) : (s.setRecord n r).handed = s.handed := rfl
@[simp] theorem setRecord_rollIn (n : Nat) (r : SourceRecord) : (s.setRecord n r).rollIn = s.rollIn := rfl
@[simp] theorem setRecord_commandIn (n : Nat) (r : SourceRecord) : (s.setRecord n r).commandIn = s.commandIn := rfl
@[simp] theorem setRecord_tagger (n : Nat) (r : SourceRecord) : (s.setRecord n r).tagger = s.tagger := rfl
@[simp] theorem setRecord_filter (n : Nat) (r : SourceRecord) : (s.setRecord n r).filter = s.filter := rfl
@[simp] theorem setRecord_pool (n : Nat) (r : SourceRecord) : (s.setRecord n r).pool = s.pool := rfl
@[simp] theorem setRecord_egress (n : Nat) (r : SourceRecord) : (s.setRecord n r).egress = s.egress := rfl
@[simp] theorem setRecord_repeater (n : Nat) (r : SourceRecord) : (s.setRecord n r).repeater = s.repeater := rfl
@[simp] theorem setRecord_slots (n : Nat) (r : SourceRecord) : (s.setRecord n r).slots = s.slots := rfl
@[simp] theorem setRecord_check (n : Nat) (r : SourceRecord) : (s.setRecord n r).check = s.check := rfl
@[simp] theorem setRecord_time (n : Nat) (r : SourceRecord) : (s.setRecord n r).time = s.time := rfl
@[simp] theorem setRecord_roll (n : Nat) (r : SourceRecord) : (s.setRecord n r).roll = s.roll := rfl
@[simp] theorem setRecord_report (n : Nat) (r : SourceRecord) : (s.setRecord n r).report = s.report := rfl

@[simp] theorem withLanes_pending (e w : CheckLane) : (s.withLanes e w).pending = s.pending := rfl
@[simp] theorem withLanes_pins (e w : CheckLane) : (s.withLanes e w).pins = s.pins := rfl
@[simp] theorem withLanes_clock (e w : CheckLane) : (s.withLanes e w).clock = s.clock := rfl
@[simp] theorem withLanes_loader (e w : CheckLane) : (s.withLanes e w).loader = s.loader := rfl
@[simp] theorem withLanes_ports (e w : CheckLane) : (s.withLanes e w).ports = s.ports := rfl
@[simp] theorem withLanes_handed (e w : CheckLane) : (s.withLanes e w).handed = s.handed := rfl
@[simp] theorem withLanes_rollIn (e w : CheckLane) : (s.withLanes e w).rollIn = s.rollIn := rfl
@[simp] theorem withLanes_commandIn (e w : CheckLane) : (s.withLanes e w).commandIn = s.commandIn := rfl
@[simp] theorem withLanes_tagger (e w : CheckLane) : (s.withLanes e w).tagger = s.tagger := rfl
@[simp] theorem withLanes_filter (e w : CheckLane) : (s.withLanes e w).filter = s.filter := rfl
@[simp] theorem withLanes_sources (e w : CheckLane) : (s.withLanes e w).sources = s.sources := rfl
@[simp] theorem withLanes_pool (e w : CheckLane) : (s.withLanes e w).pool = s.pool := rfl
@[simp] theorem withLanes_egress (e w : CheckLane) : (s.withLanes e w).egress = s.egress := rfl
@[simp] theorem withLanes_repeater (e w : CheckLane) : (s.withLanes e w).repeater = s.repeater := rfl
@[simp] theorem withLanes_slots (e w : CheckLane) : (s.withLanes e w).slots = s.slots := rfl
@[simp] theorem withLanes_time (e w : CheckLane) : (s.withLanes e w).time = s.time := rfl
@[simp] theorem withLanes_roll (e w : CheckLane) : (s.withLanes e w).roll = s.roll := rfl
@[simp] theorem withLanes_report (e w : CheckLane) : (s.withLanes e w).report = s.report := rfl

@[simp] theorem countPort_pending (p : Port) (f : PortCounters → PortCounters) : (s.countPort p f).pending = s.pending := rfl
@[simp] theorem countPort_pins (p : Port) (f : PortCounters → PortCounters) : (s.countPort p f).pins = s.pins := rfl
@[simp] theorem countPort_clock (p : Port) (f : PortCounters → PortCounters) : (s.countPort p f).clock = s.clock := rfl
@[simp] theorem countPort_loader (p : Port) (f : PortCounters → PortCounters) : (s.countPort p f).loader = s.loader := rfl
@[simp] theorem countPort_handed (p : Port) (f : PortCounters → PortCounters) : (s.countPort p f).handed = s.handed := rfl
@[simp] theorem countPort_rollIn (p : Port) (f : PortCounters → PortCounters) : (s.countPort p f).rollIn = s.rollIn := rfl
@[simp] theorem countPort_commandIn (p : Port) (f : PortCounters → PortCounters) : (s.countPort p f).commandIn = s.commandIn := rfl
@[simp] theorem countPort_tagger (p : Port) (f : PortCounters → PortCounters) : (s.countPort p f).tagger = s.tagger := rfl
@[simp] theorem countPort_filter (p : Port) (f : PortCounters → PortCounters) : (s.countPort p f).filter = s.filter := rfl
@[simp] theorem countPort_sources (p : Port) (f : PortCounters → PortCounters) : (s.countPort p f).sources = s.sources := rfl
@[simp] theorem countPort_pool (p : Port) (f : PortCounters → PortCounters) : (s.countPort p f).pool = s.pool := rfl
@[simp] theorem countPort_egress (p : Port) (f : PortCounters → PortCounters) : (s.countPort p f).egress = s.egress := rfl
@[simp] theorem countPort_repeater (p : Port) (f : PortCounters → PortCounters) : (s.countPort p f).repeater = s.repeater := rfl
@[simp] theorem countPort_slots (p : Port) (f : PortCounters → PortCounters) : (s.countPort p f).slots = s.slots := rfl
@[simp] theorem countPort_check (p : Port) (f : PortCounters → PortCounters) : (s.countPort p f).check = s.check := rfl
@[simp] theorem countPort_time (p : Port) (f : PortCounters → PortCounters) : (s.countPort p f).time = s.time := rfl
@[simp] theorem countPort_roll (p : Port) (f : PortCounters → PortCounters) : (s.countPort p f).roll = s.roll := rfl
@[simp] theorem countPort_report (p : Port) (f : PortCounters → PortCounters) : (s.countPort p f).report = s.report := rfl

@[simp] theorem countEg_pending (p : Port) (f : EgressCounters → EgressCounters) : (s.countEg p f).pending = s.pending := rfl
@[simp] theorem countEg_pins (p : Port) (f : EgressCounters → EgressCounters) : (s.countEg p f).pins = s.pins := rfl
@[simp] theorem countEg_clock (p : Port) (f : EgressCounters → EgressCounters) : (s.countEg p f).clock = s.clock := rfl
@[simp] theorem countEg_loader (p : Port) (f : EgressCounters → EgressCounters) : (s.countEg p f).loader = s.loader := rfl
@[simp] theorem countEg_ports (p : Port) (f : EgressCounters → EgressCounters) : (s.countEg p f).ports = s.ports := rfl
@[simp] theorem countEg_handed (p : Port) (f : EgressCounters → EgressCounters) : (s.countEg p f).handed = s.handed := rfl
@[simp] theorem countEg_rollIn (p : Port) (f : EgressCounters → EgressCounters) : (s.countEg p f).rollIn = s.rollIn := rfl
@[simp] theorem countEg_commandIn (p : Port) (f : EgressCounters → EgressCounters) : (s.countEg p f).commandIn = s.commandIn := rfl
@[simp] theorem countEg_tagger (p : Port) (f : EgressCounters → EgressCounters) : (s.countEg p f).tagger = s.tagger := rfl
@[simp] theorem countEg_filter (p : Port) (f : EgressCounters → EgressCounters) : (s.countEg p f).filter = s.filter := rfl
@[simp] theorem countEg_sources (p : Port) (f : EgressCounters → EgressCounters) : (s.countEg p f).sources = s.sources := rfl
@[simp] theorem countEg_pool (p : Port) (f : EgressCounters → EgressCounters) : (s.countEg p f).pool = s.pool := rfl
@[simp] theorem countEg_repeater (p : Port) (f : EgressCounters → EgressCounters) : (s.countEg p f).repeater = s.repeater := rfl
@[simp] theorem countEg_slots (p : Port) (f : EgressCounters → EgressCounters) : (s.countEg p f).slots = s.slots := rfl
@[simp] theorem countEg_check (p : Port) (f : EgressCounters → EgressCounters) : (s.countEg p f).check = s.check := rfl
@[simp] theorem countEg_time (p : Port) (f : EgressCounters → EgressCounters) : (s.countEg p f).time = s.time := rfl
@[simp] theorem countEg_roll (p : Port) (f : EgressCounters → EgressCounters) : (s.countEg p f).roll = s.roll := rfl
@[simp] theorem countEg_report (p : Port) (f : EgressCounters → EgressCounters) : (s.countEg p f).report = s.report := rfl

@[simp] theorem countFilter_pending (p : RingPort) (f : FilterCounters → FilterCounters) : (s.countFilter p f).pending = s.pending := rfl
@[simp] theorem countFilter_pins (p : RingPort) (f : FilterCounters → FilterCounters) : (s.countFilter p f).pins = s.pins := rfl
@[simp] theorem countFilter_clock (p : RingPort) (f : FilterCounters → FilterCounters) : (s.countFilter p f).clock = s.clock := rfl
@[simp] theorem countFilter_loader (p : RingPort) (f : FilterCounters → FilterCounters) : (s.countFilter p f).loader = s.loader := rfl
@[simp] theorem countFilter_ports (p : RingPort) (f : FilterCounters → FilterCounters) : (s.countFilter p f).ports = s.ports := rfl
@[simp] theorem countFilter_handed (p : RingPort) (f : FilterCounters → FilterCounters) : (s.countFilter p f).handed = s.handed := rfl
@[simp] theorem countFilter_rollIn (p : RingPort) (f : FilterCounters → FilterCounters) : (s.countFilter p f).rollIn = s.rollIn := rfl
@[simp] theorem countFilter_commandIn (p : RingPort) (f : FilterCounters → FilterCounters) : (s.countFilter p f).commandIn = s.commandIn := rfl
@[simp] theorem countFilter_tagger (p : RingPort) (f : FilterCounters → FilterCounters) : (s.countFilter p f).tagger = s.tagger := rfl
@[simp] theorem countFilter_sources (p : RingPort) (f : FilterCounters → FilterCounters) : (s.countFilter p f).sources = s.sources := rfl
@[simp] theorem countFilter_pool (p : RingPort) (f : FilterCounters → FilterCounters) : (s.countFilter p f).pool = s.pool := rfl
@[simp] theorem countFilter_egress (p : RingPort) (f : FilterCounters → FilterCounters) : (s.countFilter p f).egress = s.egress := rfl
@[simp] theorem countFilter_repeater (p : RingPort) (f : FilterCounters → FilterCounters) : (s.countFilter p f).repeater = s.repeater := rfl
@[simp] theorem countFilter_slots (p : RingPort) (f : FilterCounters → FilterCounters) : (s.countFilter p f).slots = s.slots := rfl
@[simp] theorem countFilter_check (p : RingPort) (f : FilterCounters → FilterCounters) : (s.countFilter p f).check = s.check := rfl
@[simp] theorem countFilter_time (p : RingPort) (f : FilterCounters → FilterCounters) : (s.countFilter p f).time = s.time := rfl
@[simp] theorem countFilter_roll (p : RingPort) (f : FilterCounters → FilterCounters) : (s.countFilter p f).roll = s.roll := rfl
@[simp] theorem countFilter_report (p : RingPort) (f : FilterCounters → FilterCounters) : (s.countFilter p f).report = s.report := rfl

@[simp] theorem countRoll_pending (f : RollCounters → RollCounters) : (s.countRoll f).pending = s.pending := rfl
@[simp] theorem countRoll_pins (f : RollCounters → RollCounters) : (s.countRoll f).pins = s.pins := rfl
@[simp] theorem countRoll_clock (f : RollCounters → RollCounters) : (s.countRoll f).clock = s.clock := rfl
@[simp] theorem countRoll_loader (f : RollCounters → RollCounters) : (s.countRoll f).loader = s.loader := rfl
@[simp] theorem countRoll_ports (f : RollCounters → RollCounters) : (s.countRoll f).ports = s.ports := rfl
@[simp] theorem countRoll_handed (f : RollCounters → RollCounters) : (s.countRoll f).handed = s.handed := rfl
@[simp] theorem countRoll_rollIn (f : RollCounters → RollCounters) : (s.countRoll f).rollIn = s.rollIn := rfl
@[simp] theorem countRoll_commandIn (f : RollCounters → RollCounters) : (s.countRoll f).commandIn = s.commandIn := rfl
@[simp] theorem countRoll_tagger (f : RollCounters → RollCounters) : (s.countRoll f).tagger = s.tagger := rfl
@[simp] theorem countRoll_filter (f : RollCounters → RollCounters) : (s.countRoll f).filter = s.filter := rfl
@[simp] theorem countRoll_sources (f : RollCounters → RollCounters) : (s.countRoll f).sources = s.sources := rfl
@[simp] theorem countRoll_pool (f : RollCounters → RollCounters) : (s.countRoll f).pool = s.pool := rfl
@[simp] theorem countRoll_egress (f : RollCounters → RollCounters) : (s.countRoll f).egress = s.egress := rfl
@[simp] theorem countRoll_repeater (f : RollCounters → RollCounters) : (s.countRoll f).repeater = s.repeater := rfl
@[simp] theorem countRoll_slots (f : RollCounters → RollCounters) : (s.countRoll f).slots = s.slots := rfl
@[simp] theorem countRoll_check (f : RollCounters → RollCounters) : (s.countRoll f).check = s.check := rfl
@[simp] theorem countRoll_time (f : RollCounters → RollCounters) : (s.countRoll f).time = s.time := rfl
@[simp] theorem countRoll_report (f : RollCounters → RollCounters) : (s.countRoll f).report = s.report := rfl

@[simp] theorem countReport_pending (f : ReportCounters → ReportCounters) : (s.countReport f).pending = s.pending := rfl
@[simp] theorem countReport_pins (f : ReportCounters → ReportCounters) : (s.countReport f).pins = s.pins := rfl
@[simp] theorem countReport_clock (f : ReportCounters → ReportCounters) : (s.countReport f).clock = s.clock := rfl
@[simp] theorem countReport_loader (f : ReportCounters → ReportCounters) : (s.countReport f).loader = s.loader := rfl
@[simp] theorem countReport_ports (f : ReportCounters → ReportCounters) : (s.countReport f).ports = s.ports := rfl
@[simp] theorem countReport_handed (f : ReportCounters → ReportCounters) : (s.countReport f).handed = s.handed := rfl
@[simp] theorem countReport_rollIn (f : ReportCounters → ReportCounters) : (s.countReport f).rollIn = s.rollIn := rfl
@[simp] theorem countReport_commandIn (f : ReportCounters → ReportCounters) : (s.countReport f).commandIn = s.commandIn := rfl
@[simp] theorem countReport_tagger (f : ReportCounters → ReportCounters) : (s.countReport f).tagger = s.tagger := rfl
@[simp] theorem countReport_filter (f : ReportCounters → ReportCounters) : (s.countReport f).filter = s.filter := rfl
@[simp] theorem countReport_sources (f : ReportCounters → ReportCounters) : (s.countReport f).sources = s.sources := rfl
@[simp] theorem countReport_pool (f : ReportCounters → ReportCounters) : (s.countReport f).pool = s.pool := rfl
@[simp] theorem countReport_egress (f : ReportCounters → ReportCounters) : (s.countReport f).egress = s.egress := rfl
@[simp] theorem countReport_repeater (f : ReportCounters → ReportCounters) : (s.countReport f).repeater = s.repeater := rfl
@[simp] theorem countReport_slots (f : ReportCounters → ReportCounters) : (s.countReport f).slots = s.slots := rfl
@[simp] theorem countReport_check (f : ReportCounters → ReportCounters) : (s.countReport f).check = s.check := rfl
@[simp] theorem countReport_time (f : ReportCounters → ReportCounters) : (s.countReport f).time = s.time := rfl
@[simp] theorem countReport_roll (f : ReportCounters → ReportCounters) : (s.countReport f).roll = s.roll := rfl

@[simp] theorem release_pending (i : Nat) : (release i s).pending = s.pending := rfl
@[simp] theorem release_pins (i : Nat) : (release i s).pins = s.pins := rfl
@[simp] theorem release_clock (i : Nat) : (release i s).clock = s.clock := rfl
@[simp] theorem release_loader (i : Nat) : (release i s).loader = s.loader := rfl
@[simp] theorem release_ports (i : Nat) : (release i s).ports = s.ports := rfl
@[simp] theorem release_handed (i : Nat) : (release i s).handed = s.handed := rfl
@[simp] theorem release_rollIn (i : Nat) : (release i s).rollIn = s.rollIn := rfl
@[simp] theorem release_commandIn (i : Nat) : (release i s).commandIn = s.commandIn := rfl
@[simp] theorem release_tagger (i : Nat) : (release i s).tagger = s.tagger := rfl
@[simp] theorem release_filter (i : Nat) : (release i s).filter = s.filter := rfl
@[simp] theorem release_sources (i : Nat) : (release i s).sources = s.sources := rfl
@[simp] theorem release_egress (i : Nat) : (release i s).egress = s.egress := rfl
@[simp] theorem release_repeater (i : Nat) : (release i s).repeater = s.repeater := rfl
@[simp] theorem release_slots (i : Nat) : (release i s).slots = s.slots := rfl
@[simp] theorem release_check (i : Nat) : (release i s).check = s.check := rfl
@[simp] theorem release_time (i : Nat) : (release i s).time = s.time := rfl
@[simp] theorem release_roll (i : Nat) : (release i s).roll = s.roll := rfl
@[simp] theorem release_report (i : Nat) : (release i s).report = s.report := rfl

@[simp] theorem fillBuffer_pending (i : Nat) (b : List Byte) (h : Bool) : (fillBuffer i b h s).pending = s.pending := rfl
@[simp] theorem fillBuffer_pins (i : Nat) (b : List Byte) (h : Bool) : (fillBuffer i b h s).pins = s.pins := rfl
@[simp] theorem fillBuffer_clock (i : Nat) (b : List Byte) (h : Bool) : (fillBuffer i b h s).clock = s.clock := rfl
@[simp] theorem fillBuffer_loader (i : Nat) (b : List Byte) (h : Bool) : (fillBuffer i b h s).loader = s.loader := rfl
@[simp] theorem fillBuffer_ports (i : Nat) (b : List Byte) (h : Bool) : (fillBuffer i b h s).ports = s.ports := rfl
@[simp] theorem fillBuffer_handed (i : Nat) (b : List Byte) (h : Bool) : (fillBuffer i b h s).handed = s.handed := rfl
@[simp] theorem fillBuffer_rollIn (i : Nat) (b : List Byte) (h : Bool) : (fillBuffer i b h s).rollIn = s.rollIn := rfl
@[simp] theorem fillBuffer_commandIn (i : Nat) (b : List Byte) (h : Bool) : (fillBuffer i b h s).commandIn = s.commandIn := rfl
@[simp] theorem fillBuffer_tagger (i : Nat) (b : List Byte) (h : Bool) : (fillBuffer i b h s).tagger = s.tagger := rfl
@[simp] theorem fillBuffer_filter (i : Nat) (b : List Byte) (h : Bool) : (fillBuffer i b h s).filter = s.filter := rfl
@[simp] theorem fillBuffer_sources (i : Nat) (b : List Byte) (h : Bool) : (fillBuffer i b h s).sources = s.sources := rfl
@[simp] theorem fillBuffer_egress (i : Nat) (b : List Byte) (h : Bool) : (fillBuffer i b h s).egress = s.egress := rfl
@[simp] theorem fillBuffer_repeater (i : Nat) (b : List Byte) (h : Bool) : (fillBuffer i b h s).repeater = s.repeater := rfl
@[simp] theorem fillBuffer_slots (i : Nat) (b : List Byte) (h : Bool) : (fillBuffer i b h s).slots = s.slots := rfl
@[simp] theorem fillBuffer_check (i : Nat) (b : List Byte) (h : Bool) : (fillBuffer i b h s).check = s.check := rfl
@[simp] theorem fillBuffer_time (i : Nat) (b : List Byte) (h : Bool) : (fillBuffer i b h s).time = s.time := rfl
@[simp] theorem fillBuffer_roll (i : Nat) (b : List Byte) (h : Bool) : (fillBuffer i b h s).roll = s.roll := rfl
@[simp] theorem fillBuffer_report (i : Nat) (b : List Byte) (h : Bool) : (fillBuffer i b h s).report = s.report := rfl

@[simp] theorem setRx_pending (p : Port) (r : Receiver) : (setRx p r s).pending = s.pending := rfl
@[simp] theorem setRx_pins (p : Port) (r : Receiver) : (setRx p r s).pins = s.pins := rfl
@[simp] theorem setRx_clock (p : Port) (r : Receiver) : (setRx p r s).clock = s.clock := rfl
@[simp] theorem setRx_loader (p : Port) (r : Receiver) : (setRx p r s).loader = s.loader := rfl
@[simp] theorem setRx_handed (p : Port) (r : Receiver) : (setRx p r s).handed = s.handed := rfl
@[simp] theorem setRx_rollIn (p : Port) (r : Receiver) : (setRx p r s).rollIn = s.rollIn := rfl
@[simp] theorem setRx_commandIn (p : Port) (r : Receiver) : (setRx p r s).commandIn = s.commandIn := rfl
@[simp] theorem setRx_tagger (p : Port) (r : Receiver) : (setRx p r s).tagger = s.tagger := rfl
@[simp] theorem setRx_filter (p : Port) (r : Receiver) : (setRx p r s).filter = s.filter := rfl
@[simp] theorem setRx_sources (p : Port) (r : Receiver) : (setRx p r s).sources = s.sources := rfl
@[simp] theorem setRx_pool (p : Port) (r : Receiver) : (setRx p r s).pool = s.pool := rfl
@[simp] theorem setRx_egress (p : Port) (r : Receiver) : (setRx p r s).egress = s.egress := rfl
@[simp] theorem setRx_repeater (p : Port) (r : Receiver) : (setRx p r s).repeater = s.repeater := rfl
@[simp] theorem setRx_slots (p : Port) (r : Receiver) : (setRx p r s).slots = s.slots := rfl
@[simp] theorem setRx_check (p : Port) (r : Receiver) : (setRx p r s).check = s.check := rfl
@[simp] theorem setRx_time (p : Port) (r : Receiver) : (setRx p r s).time = s.time := rfl
@[simp] theorem setRx_roll (p : Port) (r : Receiver) : (setRx p r s).roll = s.roll := rfl
@[simp] theorem setRx_report (p : Port) (r : Receiver) : (setRx p r s).report = s.report := rfl

@[simp] theorem restartHold_pending : (restartHold s).pending = s.pending := rfl
@[simp] theorem restartHold_pins : (restartHold s).pins = s.pins := rfl
@[simp] theorem restartHold_clock : (restartHold s).clock = s.clock := rfl
@[simp] theorem restartHold_loader : (restartHold s).loader = s.loader := rfl
@[simp] theorem restartHold_ports : (restartHold s).ports = s.ports := rfl
@[simp] theorem restartHold_handed : (restartHold s).handed = s.handed := rfl
@[simp] theorem restartHold_rollIn : (restartHold s).rollIn = s.rollIn := rfl
@[simp] theorem restartHold_commandIn : (restartHold s).commandIn = s.commandIn := rfl
@[simp] theorem restartHold_tagger : (restartHold s).tagger = s.tagger := rfl
@[simp] theorem restartHold_filter : (restartHold s).filter = s.filter := rfl
@[simp] theorem restartHold_sources : (restartHold s).sources = s.sources := rfl
@[simp] theorem restartHold_pool : (restartHold s).pool = s.pool := rfl
@[simp] theorem restartHold_egress : (restartHold s).egress = s.egress := rfl
@[simp] theorem restartHold_repeater : (restartHold s).repeater = s.repeater := rfl
@[simp] theorem restartHold_slots : (restartHold s).slots = s.slots := rfl
@[simp] theorem restartHold_check : (restartHold s).check = s.check := rfl
@[simp] theorem restartHold_time : (restartHold s).time = s.time := rfl
@[simp] theorem restartHold_roll : (restartHold s).roll = s.roll := rfl

@[simp] theorem followConditions_pending : (followConditions s).pending = s.pending := rfl
@[simp] theorem followConditions_pins : (followConditions s).pins = s.pins := rfl
@[simp] theorem followConditions_clock : (followConditions s).clock = s.clock := rfl
@[simp] theorem followConditions_loader : (followConditions s).loader = s.loader := rfl
@[simp] theorem followConditions_ports : (followConditions s).ports = s.ports := rfl
@[simp] theorem followConditions_handed : (followConditions s).handed = s.handed := rfl
@[simp] theorem followConditions_rollIn : (followConditions s).rollIn = s.rollIn := rfl
@[simp] theorem followConditions_commandIn : (followConditions s).commandIn = s.commandIn := rfl
@[simp] theorem followConditions_tagger : (followConditions s).tagger = s.tagger := rfl
@[simp] theorem followConditions_filter : (followConditions s).filter = s.filter := rfl
@[simp] theorem followConditions_sources : (followConditions s).sources = s.sources := rfl
@[simp] theorem followConditions_pool : (followConditions s).pool = s.pool := rfl
@[simp] theorem followConditions_egress : (followConditions s).egress = s.egress := rfl
@[simp] theorem followConditions_repeater : (followConditions s).repeater = s.repeater := rfl
@[simp] theorem followConditions_slots : (followConditions s).slots = s.slots := rfl
@[simp] theorem followConditions_check : (followConditions s).check = s.check := rfl
@[simp] theorem followConditions_time : (followConditions s).time = s.time := rfl
@[simp] theorem followConditions_roll : (followConditions s).roll = s.roll := rfl

@[simp] theorem tick_pending : (s.tick).pending = s.pending := rfl
@[simp] theorem tick_pins : (s.tick).pins = s.pins := rfl
@[simp] theorem tick_loader : (s.tick).loader = s.loader := rfl
@[simp] theorem tick_ports : (s.tick).ports = s.ports := rfl
@[simp] theorem tick_handed : (s.tick).handed = s.handed := rfl
@[simp] theorem tick_rollIn : (s.tick).rollIn = s.rollIn := rfl
@[simp] theorem tick_commandIn : (s.tick).commandIn = s.commandIn := rfl
@[simp] theorem tick_tagger : (s.tick).tagger = s.tagger := rfl
@[simp] theorem tick_filter : (s.tick).filter = s.filter := rfl
@[simp] theorem tick_sources : (s.tick).sources = s.sources := rfl
@[simp] theorem tick_pool : (s.tick).pool = s.pool := rfl
@[simp] theorem tick_egress : (s.tick).egress = s.egress := rfl
@[simp] theorem tick_repeater : (s.tick).repeater = s.repeater := rfl
@[simp] theorem tick_slots : (s.tick).slots = s.slots := rfl
@[simp] theorem tick_check : (s.tick).check = s.check := rfl
@[simp] theorem tick_time : (s.tick).time = s.time := rfl
@[simp] theorem tick_roll : (s.tick).roll = s.roll := rfl
@[simp] theorem tick_report : (s.tick).report = s.report := rfl

end Fields

end Sys2Proof.Machine
end

