-- ==== Sys2Proof/Laws/Kept.lean ====
section
/-! SUPPORT. What one update can do, said once. `KeptInside L` lists the updates that commands are made of, each with
what holds when it is made, and asks that a property `L` of states survives it; `Kept L` adds those of the loader, of
starts and of ZERO. `Kept.exec` (Laws/KeptExec.lean) then carries `L` through every command. -/

namespace Sys2Proof.Machine

/-! ## Updates of one part -/

/-- An update of the report unit: the change list stays, is emptied or takes one new item, and the command queue and
the notice list stay within their sizes. -/
structure ReportStep (a b : ReportUnit) : Prop where
  changes : b.changes = a.changes ∨ b.changes = [] ∨
    ∃ i, i ∉ a.changes ∧ a.changes.length < 16 ∧ b.changes = a.changes ++ [i]
  queue : b.queue.length ≤ a.queue.length ∨ b.queue.length ≤ 2
  notices : b.notices.length ≤ a.notices.length ∨ b.notices.length ≤ 4

/-- An update of the pool. -/
inductive PoolStep (a : Pool) : Pool → Prop
  | take (h : 0 < a.free) : PoolStep a a.take.2
  | release (i : Nat) : PoolStep a (a.release i)
  | hold (i : Nat) : PoolStep a (a.addHold i)
  | fill (i : Nat) (bytes : List Byte) (hasFcs : Bool) :
      PoolStep a (a.modify i fun b => { b with bytes := bytes, hasFcs := hasFcs })
  | refused (n : Counter) : PoolStep a { a with refused := n }

/-- An update of an egress scheduler: a queue loses entries, or an entry joins one with room on a port not DOWN; the
transmitter changes on a port not DOWN or when it is not free, and not from or to a repeater transmission. -/
structure EgressStep (down : Bool) (a b : Egress) : Prop where
  queue : ∀ c, (b.queue c).Sublist (a.queue c) ∨
    (down = false ∧ (a.queue c).length < c.depth ∧ ∃ x, b.queue c = a.queue c ++ [x])
  tx : b.tx = a.tx ∨
    ((down = false ∨ a.tx ≠ .free) ∧ (∀ f l d, a.tx ≠ .repeating f l d) ∧ (∀ f l d, b.tx ≠ .repeating f l d))

/-- An update of a port unit. -/
inductive PortStep (p : Port) (a : PortUnit) : PortUnit → Prop
  | counters (k : PortCounters) : PortStep p a { a with counters := k }
  | mark (i : Indications) (f : WindowFlags) (h : a.state ≠ .down) : PortStep p a { a with ind := i, flags := f }
  | start (r : Receiver) (h : a.state ≠ .down) (idle : a.rx = .idle) (hr : ∀ f, r ≠ .repeating f) :
      PortStep p a { a with rx := r }
  | qual (q : Option Timer) (h : a.state = .down) : PortStep p a { a with qual := q }
  | up (w : Timer) (h : a.state = .down) : PortStep p a (a.enterUp w)
  | window (b f n : Nat) (h : a.state ≠ .down) (hw : a.window.isSome = true) : PortStep p a (a.judgeWindow p b f n)

/-- An update of a watch slot. -/
inductive SlotStep (a : Slot) : Slot → Prop
  | take (c : Clock) (n : CopyNotice) (h : a.inUse = true) : SlotStep a (a.take c n)
  | stream (c : Clock) (h : a.streamDue c = true) : SlotStep a a.streamExpires
  | lane (c : Clock) (x : Lane) (h : a.laneDue c x = true) : SlotStep a (a.laneExpires x)
  | lose (h : a.status = .await) (hd : a.deadline.isSome = true) : SlotStep a a.lose

/-- An update of the ring check unit that leaves lane states, miss counts and the ring state. -/
structure CheckStep (a b : RingCheck) : Prop where
  ring : b.ring = a.ring
  stateE : b.lanes.e.state = a.lanes.e.state
  stateW : b.lanes.w.state = a.lanes.w.state
  missE : b.lanes.e.miss = a.lanes.e.miss
  missW : b.lanes.w.miss = a.lanes.w.miss

/-- An update of a lane of the ring check unit: `limit` is C, and `down` says that a ring port is DOWN. -/
inductive LaneStep (limit : Nat) (down : Bool) (a : CheckLane) : CheckLane → Prop
  | same : LaneStep limit down a a
  | judge : LaneStep limit down a (a.judge limit)
  | counted (latency : Stamp) : LaneStep limit down a (a.countReturn latency down)
  | late : LaneStep limit down a a.countLate

/-- An update of the roll unit. -/
inductive RollStep (a : RollUnit) : RollUnit → Prop
  | counters (k : RollCounters) : RollStep a { a with counters := k }
  | again (h : a.running = true) : RollStep a { a with again := true }
  | clear : RollStep a { a with again := false }
  | opens (c : RollCause) (n : Byte) (e w : Bool) (t : Timer) (k : RollCounters) :
      RollStep a { a with running := true, cause := c, number := n, lanes := ⟨startLane e, startLane w⟩,
                          timeout := some t, counters := k }
  | closes (m : RingMap) (h : m.lanes = a.lanes) (ha : a.again = false) :
      RollStep a { a with running := false, timeout := none, lanes := ⟨{}, {}⟩, map := m }
  | halts (k : RollCounters) :
      RollStep a { a with running := false, timeout := none, lanes := ⟨{}, {}⟩, again := false, counters := k }
  | lanes (l : PerLane RollLane) (h : a.running = true) (he : l.e = a.lanes.e ∨ l.e.Law)
      (hw : l.w = a.lanes.w ∨ l.w.Law) : RollStep a { a with lanes := l }

/-- The loader after an attempt with status `st` whose transaction ended with these operations. -/
def Loader.attempted (l : Loader) (st : ImageStatus) (ops : List BusOp) : Loader :=
  { l with attempts := l.attempts + 1, imageStatus := st, bus := ops }

/-- The loader after the decisions of R173 to R177. -/
inductive Decided (l : Loader) : Loader → Prop
  | good (image : List Byte) (st : ImageStatus) (ops : List BusOp) :
      Decided l (goodDraft image l.strap (l.attempted st ops))
  | bad (st : ImageStatus) (ops : List BusOp) : Decided l (badDraft l.strap (l.attempted st ops))

/-! ## Properties that survive updates -/

/-- The updates inside commands, but for the loader's, starts and ZERO. Where an update belongs to a ring member, that
is shown by some state `o` of the same loader that has `L` and a mark of membership. -/
structure KeptInside (L : State → Prop) : Prop where
  pins : ∀ s q, L s → L { s with pins := q } := by intros; assumption
  clock : ∀ s c t, L s → L { s with clock := c, time := t } := by intros; assumption
  tagger : ∀ s t, L s → L { s with tagger := t } := by intros; assumption
  filter : ∀ s f, L s → L { s with filter := f } := by intros; assumption
  handed : ∀ s h, L s → L { s with handed := h } := by intros; assumption
  rollIn : ∀ s r, L s → L { s with rollIn := r } := by intros; assumption
  commandIn : ∀ s c, L s → L { s with commandIn := c } := by intros; assumption
  report : ∀ s r, ReportStep s.report r → L s → L { s with report := r } := by intros; assumption
  pool : ∀ s q, PoolStep s.pool q → L s → L { s with pool := q } := by intros; assumption
  egress : ∀ s p e, EgressStep (s.isDown p) (s.eg p) e → L s → L (s.setEg p e) := by intros; assumption
  port : ∀ s p u, PortStep p (s.port p) u → L s → L (s.setPort p u) := by intros; assumption
  judge : ∀ s lim sq e x a t n, L s →
    L (s.setRecord n ((s.record n).judge lim sq e x a t).src) := by intros; assumption
  age : ∀ s n, L s → L (s.setRecord n {}) := by intros; assumption
  slot : ∀ s n w, n < 32 → SlotStep (s.slot n) w → L s →
    L { s with slots := s.slots.setIfInBounds n w } := by intros; assumption
  check : ∀ s o c, CheckStep s.check c → L s → L o → o.loader = s.loader → o.member = true ∨ o.check ≠ {} →
    L { s with check := c } := by intros; assumption
  lanes : ∀ s e w, LaneStep s.cfg.profile.missLimit s.ringPortDown s.check.lanes.e e →
    LaneStep s.cfg.profile.missLimit s.ringPortDown s.check.lanes.w w →
    s.member = true ∨ s.check ≠ {} → L s → L (s.withLanes e w) := by intros; assumption
  roll : ∀ s r, RollStep s.roll r → L s → L { s with roll := r } := by intros; assumption
  lost : ∀ s p n, L s → L (repeatLost p n s) := by intros; assumption
  startRepeat : ∀ s out, L s → L (startRepeat out s)
  repeatDone : ∀ s out f b d, (s.eg (RingPort.port out)).tx = .repeating f b d → L s →
    L ((freeStore out.opposite f s).setEg out.port { s.eg out.port with tx := .gap (d + gapCycles) })
  repeated : ∀ s p n, L s → L (s.setDir p { s.dir p with repeated := n }) := by intros; assumption
  repeatTake : ∀ s (p : RingPort) f, (s.dir p).store f = .free → (s.port p.port).rx = .idle →
    s.isDown p.port = false → L s →
    L ((s.setDir p ((s.dir p).setStore f .receiving)).setPort p.port { s.port p.port with rx := .repeating f })
  giant : ∀ s p, L s → L (setRx p (s.port p).rx.markGiant (dropReception p s))
  endError : ∀ s p o, (s.port p).rx ≠ .idle → L s → L (countOutcome p o (dropReception p s))
  endIntact : ∀ s p, (s.port p).rx ≠ .idle → (∀ f, p.ring?.isSome = true → (s.port p).rx ≠ .repeating f) → L s →
    L (countOutcome p .intact s)
  repeatLoses : ∀ s (p : RingPort) f, (s.port p.port).rx = .repeating f → L s →
    L (freeStore p f (countOutcome p.port .intact s))
  repeatJoins : ∀ s (p : RingPort) f b, (s.port p.port).rx = .repeating f → L s →
    L (joinOrder p f b (countOutcome p.port .intact s))
  fallen : ∀ s p, s.isDown p = false → L s → L (fallen p s)

/-- All updates that commands are made of. -/
structure Kept (L : State → Prop) : Prop extends KeptInside L where
  zero : ∀ s, L s → L (zeroCounters s)
  start : ∀ s c, L s → L (takeStart c s)
  enter : ∀ s st, s.loader.nodeState = .reset → L s →
    L (enterLoading { s with pins := { s.pins with rst := true, straps := st } })
  minor : ∀ s se oe w pt ops, s.loader.nodeState = .loading → L s →
    L { s with loader := { s.loader with
      storedEpoch := se, ownEpoch := oe, warnings := w, pollTimer := pt, bus := ops } } := by intros; assumption
  begins : ∀ s ph, s.loader.nodeState = .loading → ph ≠ .image → (∀ f, ph = .epochRead f → f ≤ 2) → L s →
    L (beginTransaction ph s)
  retry : ∀ s st ops, s.loadingIn .image = true → s.loader.attempts + 1 < 3 → L s →
    L (beginTransaction .image { s with loader := s.loader.attempted st ops })
  decides : ∀ s l d, s.loadingIn .image = true → Decided s.loader l → l.draft = some d → L s →
    L (beginTransaction (.epochRead 0) { s with loader := l })
  transit : ∀ s l d, s.loadingIn .image = true → Decided s.loader l → l.draft = some d → L s →
    L (fixConfiguration d { s with loader := l })
  fix : ∀ s d, s.loader.nodeState = .loading → s.loader.draft = some d → L s → L (fixConfiguration d s)

end Sys2Proof.Machine
end

