-- ==== Sys2Proof/Laws/KeptOps.lean ====
section
/-! SUPPORT. A property that survives the updates of `KeptInside` survives the operations inside commands. -/

namespace Sys2Proof.Machine

variable {L : State → Prop}

/-! ## Report unit updates -/

theorem ReportStep.of_eq {a b : ReportUnit} (hc : b.changes = a.changes) (hq : b.queue = a.queue)
    (hn : b.notices = a.notices) : ReportStep a b :=
  ⟨.inl hc, .inl (by rw [hq]), .inl (by rw [hn])⟩

theorem KeptInside.note (k : KeptInside L) (i : Item) {s : State} (h : L s) : L (note i s) := by
  unfold Machine.note
  split
  · exact h
  · rename_i hn
    split
    · rename_i hl
      exact k.report s _ ⟨.inr (.inr ⟨i, fun hm => hn (.inr hm), hl, rfl⟩), .inl le_rfl, .inl le_rfl⟩ h
    · exact k.report s _ (.of_eq rfl rfl rfl) h

theorem KeptInside.noteIf (k : KeptInside L) (c : Bool) (i : Item) {s : State} (h : L s) : L (noteIf c i s) := by
  unfold Machine.noteIf; split
  · exact k.note i h
  · exact h

theorem KeptInside.restartHold (k : KeptInside L) {s : State} (h : L s) : L (restartHold s) :=
  k.report s _ (.of_eq rfl rfl rfl) h

theorem KeptInside.countReport (k : KeptInside L) (f : ReportCounters → ReportCounters) {s : State} (h : L s) :
    L (s.countReport f) := k.report s _ (.of_eq rfl rfl rfl) h

theorem KeptInside.followConditions (k : KeptInside L) {s : State} (h : L s) : L (followConditions s) :=
  k.report s _ (.of_eq rfl rfl rfl) h

theorem KeptInside.entryEnded (k : KeptInside L) (m : Mark) {s : State} (h : L s) : L (entryEnded m s) := by
  unfold Machine.entryEnded; split
  · exact k.report s _ (.of_eq rfl rfl rfl) h
  · exact h

theorem KeptInside.addNotice (k : KeptInside L) (n : Notice) {s : State} (h : L s) : L (addNotice n s) := by
  unfold Machine.addNotice; split
  · rename_i hl
    exact k.report s _ ⟨.inl rfl, .inl le_rfl, .inr (by simpa using hl)⟩ h
  · exact k.countReport _ h

/-! ## Pool, egress and port updates -/

theorem KeptInside.release (k : KeptInside L) (i : Nat) {s : State} (h : L s) : L (release i s) :=
  k.pool s _ (.release i) h

theorem KeptInside.fillBuffer (k : KeptInside L) (i : Nat) (b : List Byte) (f : Bool) {s : State} (h : L s) :
    L (fillBuffer i b f s) := k.pool s _ (.fill i b f) h

theorem KeptInside.generatorTake (k : KeptInside L) (c : Class) {s : State} (h : L s) : L (generatorTake c s).2 := by
  unfold Machine.generatorTake; split
  · rename_i hf
    exact k.pool s _ (.take (by unfold State.free at hf; omega)) h
  · exact k.pool s _ (.refused _) h

theorem EgressStep.counters (down : Bool) (e : Egress) (c : EgressCounters) :
    EgressStep down e { e with counters := c } :=
  ⟨fun x => .inl (by cases x <;> exact List.Sublist.refl _), .inl rfl⟩

theorem KeptInside.countEg (k : KeptInside L) (p : Port) (f : EgressCounters → EgressCounters) {s : State} (h : L s) :
    L (s.countEg p f) := k.egress s p _ (.counters _ _ _) h

theorem EgressStep.join {e : Egress} {c : Class} {x : Entry} (h : (e.queue c).length < c.depth) :
    EgressStep false e (e.setQueue c (e.queue c ++ [x])) := by
  refine ⟨fun y => ?_, .inl (by cases c <;> rfl)⟩
  by_cases hy : y = c
  · subst hy
    exact .inr ⟨rfl, h, x, by cases y <;> rfl⟩
  · exact .inl (by cases y <;> cases c <;> first | exact List.Sublist.refl _ | exact absurd rfl hy)

theorem KeptInside.enqueue (k : KeptInside L) (p : Port) (c : Class) (buf : Nat) (m : Mark) {s : State} (h : L s) :
    L (enqueue p c buf m s) := by
  unfold Machine.enqueue
  split
  · exact k.entryEnded _ (k.countEg _ _ h)
  · rename_i hd
    split
    · exact k.entryEnded _ (k.countEg _ _ h)
    · rename_i hl
      exact k.pool _ _ (.hold buf) (k.egress s p _ (by simpa [hd] using EgressStep.join (by omega)) h)

theorem KeptInside.enqueueRing (k : KeptInside L) (e w : Bool) (c : Class) (buf : Nat) (m : Mark) {s : State}
    (h : L s) : L (enqueueRing e w c buf m s) := by
  unfold Machine.enqueueRing
  refine k.release _ ?_
  cases e <;> cases w
  · exact h
  · exact k.enqueue _ _ _ _ h
  · exact k.enqueue _ _ _ _ h
  · exact k.enqueue _ _ _ _ (k.enqueue _ _ _ _ h)

theorem KeptInside.countPort (k : KeptInside L) (p : Port) (f : PortCounters → PortCounters) {s : State} (h : L s) :
    L (s.countPort p f) := k.port s p _ (.counters _) h

theorem State.not_down {s : State} {p : Port} (h : s.isDown p = false) : (s.port p).state ≠ .down := by
  simpa [State.isDown] using h

theorem State.not_down' {s : State} {p : Port} (h : ¬ s.isDown p = true) : (s.port p).state ≠ .down := by
  simpa [State.isDown] using h

theorem State.down {s : State} {p : Port} (h : s.isDown p = true) : (s.port p).state = .down := by
  simpa [State.isDown] using h

theorem KeptInside.indEvent (k : KeptInside L) (p : Port) (e : IndEvent) {s : State} (h : L s) :
    L (indEvent p e s) := by
  unfold Machine.indEvent; split
  · exact h
  · rename_i hd
    exact k.noteIf _ _ (k.port s p _ (.mark _ _ (State.not_down' hd)) h)

theorem KeptInside.refuseAdmission (k : KeptInside L) (p : Port) {s : State} (h : L s) : L (refuseAdmission p s) :=
  k.indEvent _ _ (k.countPort _ _ h)

theorem KeptInside.countFilter (k : KeptInside L) (p : RingPort) (f : FilterCounters → FilterCounters) {s : State}
    (h : L s) : L (s.countFilter p f) := k.filter s _ h

theorem KeptInside.countRoll (k : KeptInside L) (f : RollCounters → RollCounters) {s : State} (h : L s) :
    L (s.countRoll f) := k.roll s _ (.counters _) h

/-! ## Report frames and replies -/

theorem KeptInside.sendLocal (k : KeptInside L) (buf : Nat) (c : List Byte) (r : Bool) {s : State} (h : L s) :
    L (sendLocal buf c r s) := k.release _ (k.enqueue _ _ _ _ (k.fillBuffer _ _ _ h))

theorem KeptInside.composeLocal (k : KeptInside L) (c : State → List Byte) (r : Bool) (done : State → State)
    (hd : ∀ t, L t → L (done t)) {s : State} (h : L s) : L (composeLocal c r done s) := by
  have ht := k.generatorTake .bulk h
  unfold Machine.composeLocal
  split
  · rename_i heq; rw [heq] at ht; exact k.restartHold ht
  · rename_i heq; rw [heq] at ht; exact hd _ (k.sendLocal _ _ _ ht)

theorem KeptInside.headReplied (k : KeptInside L) {s : State} (h : L s) : L (headReplied s) := by
  unfold Machine.headReplied
  split
  · exact h
  · rename_i heq
    split
    · exact k.report s _ ⟨.inl rfl, .inl (by simp [heq]), .inl le_rfl⟩ h
    · exact k.report s _ ⟨.inl rfl, .inl (by simp [heq]), .inl le_rfl⟩ h

theorem KeptInside.composeReply (k : KeptInside L) {s : State} (h : L s) : L (composeReply s) := by
  unfold Machine.composeReply
  split
  · exact h
  · split
    · exact h
    · split
      · exact h
      · exact k.composeLocal _ _ _ (fun t ht => k.countReport _ (k.headReplied ht)) h

theorem KeptInside.reportMade (k : KeptInside L) {s : State} (h : L s) : L (reportMade s) :=
  k.restartHold (k.countReport _ h)

theorem KeptInside.listReported (k : KeptInside L) {s : State} (h : L s) : L (listReported s) :=
  k.report s _ ⟨.inr (.inl rfl), .inl le_rfl, .inl le_rfl⟩ h

theorem KeptInside.noticeReported (k : KeptInside L) {s : State} (h : L s) : L (noticeReported s) :=
  k.report s _ ⟨.inl rfl, .inl le_rfl, .inl (by simp)⟩ h

theorem KeptInside.composeWaiting (k : KeptInside L) {s : State} (h : L s) : L (composeWaiting s) := by
  unfold Machine.composeWaiting
  split
  · exact k.composeLocal _ _ _ (fun t ht => k.reportMade (k.noticeReported ht)) h
  · split
    · exact k.composeLocal _ _ _ (fun t ht => k.reportMade (k.listReported ht)) h
    · exact h

theorem KeptInside.reportService (k : KeptInside L) {s : State} (h : L s) : L (reportService s) := by
  unfold Machine.reportService; split
  · exact k.composeWaiting h
  · exact h

/-! ## The loader stays -/

/-- The updates inside commands leave the loader. -/
theorem loader_kept (l : Loader) : KeptInside (fun s => s.loader = l) where
  startRepeat := by
    intro s out h
    unfold Machine.startRepeat
    split
    · exact h
    · split <;> exact h
  repeatDone := by intros; assumption
  repeated := by intros; assumption
  repeatTake := by intros; assumption
  giant := by
    intro s p h
    simp only [setRx_loader]
    unfold dropReception
    split <;> exact h
  endError := by
    intro s p o _ h
    unfold countOutcome dropReception
    split <;> exact h
  endIntact := by intros; assumption
  repeatLoses := by intros; assumption
  repeatJoins := by intros; assumption
  fallen := by
    intro s p _ h
    have hdrop : (dropReception p s).loader = s.loader := by unfold dropReception; split <;> rfl
    have hflush : ∀ (q : Port) (t : State), (flush q t).loader = t.loader := by
      intro q t
      unfold flush
      dsimp only
      generalize (t.eg q).held = es
      suffices ∀ u : State, (es.foldl (fun t x => flushEntry x t) u).loader = u.loader from this _
      induction es with
      | nil => intro u; rfl
      | cons e es ih =>
        intro u
        rw [List.foldl_cons, ih]
        unfold flushEntry entryEnded
        split <;> rfl
    unfold fallen breakLanes
    dsimp only
    split
    · split
      · simpa [repeatDrop, hflush, hdrop] using h
      · simpa [repeatDrop, hflush, hdrop] using h
    · simpa [hflush, hdrop] using h

theorem note_loader (i : Item) (s : State) : (note i s).loader = s.loader := (loader_kept _).note i rfl
theorem noteIf_loader (c : Bool) (i : Item) (s : State) : (noteIf c i s).loader = s.loader :=
  (loader_kept _).noteIf c i rfl
theorem enqueue_loader (p : Port) (c : Class) (b : Nat) (m : Mark) (s : State) :
    (enqueue p c b m s).loader = s.loader := (loader_kept _).enqueue p c b m rfl
theorem enqueueRing_loader (e w : Bool) (c : Class) (b : Nat) (m : Mark) (s : State) :
    (enqueueRing e w c b m s).loader = s.loader := (loader_kept _).enqueueRing e w c b m rfl
theorem generatorTake_loader (c : Class) (s : State) : (generatorTake c s).2.loader = s.loader :=
  (loader_kept _).generatorTake c rfl
theorem indEvent_loader (p : Port) (e : IndEvent) (s : State) : (indEvent p e s).loader = s.loader :=
  (loader_kept _).indEvent p e rfl

end Sys2Proof.Machine
end

