-- ==== Sys2Proof/Laws/Frames.lean ====
section
/-! SUPPORT. What the noting of changes, the composing of reports and the roll unit's rounds leave as it was. -/

namespace Sys2Proof.Machine

/-- Two states that differ at most in the report unit, the pool, the egress schedulers and the roll unit. -/
structure SameBut (s t : State) : Prop where
  pending : t.pending = s.pending
  pins : t.pins = s.pins
  clock : t.clock = s.clock
  loader : t.loader = s.loader
  ports : t.ports = s.ports
  handed : t.handed = s.handed
  rollIn : t.rollIn = s.rollIn
  commandIn : t.commandIn = s.commandIn
  tagger : t.tagger = s.tagger
  filter : t.filter = s.filter
  sources : t.sources = s.sources
  repeater : t.repeater = s.repeater
  slots : t.slots = s.slots
  check : t.check = s.check
  time : t.time = s.time

theorem SameBut.refl (s : State) : SameBut s s := ⟨rfl, rfl, rfl, rfl, rfl, rfl, rfl, rfl, rfl, rfl, rfl, rfl, rfl, rfl, rfl⟩

theorem SameBut.trans {s t u : State} (h : SameBut s t) (g : SameBut t u) : SameBut s u :=
  ⟨g.1.trans h.1, g.2.trans h.2, g.3.trans h.3, g.4.trans h.4, g.5.trans h.5, g.6.trans h.6, g.7.trans h.7,
    g.8.trans h.8, g.9.trans h.9, g.10.trans h.10, g.11.trans h.11, g.12.trans h.12, g.13.trans h.13, g.14.trans h.14,
    g.15.trans h.15⟩

/-- An update of the four parts alone. -/
theorem SameBut.parts (s : State) (r : ReportUnit) (p : Pool) (e : PerPort Egress) (u : RollUnit) :
    SameBut s { s with report := r, pool := p, egress := e, roll := u } :=
  ⟨rfl, rfl, rfl, rfl, rfl, rfl, rfl, rfl, rfl, rfl, rfl, rfl, rfl, rfl, rfl⟩

theorem SameBut.setEg (s : State) (p : Port) (e : Egress) : SameBut s (s.setEg p e) := .parts s s.report s.pool _ s.roll

theorem SameBut.note (i : Item) (s : State) : SameBut s (note i s) := by
  unfold Machine.note
  split
  · exact .refl s
  · split <;> exact .parts s _ s.pool s.egress s.roll

theorem SameBut.noteIf (c : Bool) (i : Item) (s : State) : SameBut s (noteIf c i s) := by
  unfold Machine.noteIf
  split
  · exact .note i s
  · exact .refl s

theorem SameBut.countReport (f : ReportCounters → ReportCounters) (s : State) : SameBut s (s.countReport f) :=
  .parts s _ s.pool s.egress s.roll

theorem SameBut.restartHold (s : State) : SameBut s (restartHold s) := .parts s _ s.pool s.egress s.roll

theorem SameBut.addNotice (n : Notice) (s : State) : SameBut s (addNotice n s) := by
  unfold Machine.addNotice
  split
  · exact .parts s _ s.pool s.egress s.roll
  · exact .countReport _ s

theorem SameBut.release (i : Nat) (s : State) : SameBut s (release i s) := .parts s s.report _ s.egress s.roll

theorem SameBut.fillBuffer (i : Nat) (b : List Byte) (h : Bool) (s : State) : SameBut s (fillBuffer i b h s) :=
  .parts s s.report _ s.egress s.roll

theorem SameBut.entryEnded (m : Mark) (s : State) : SameBut s (entryEnded m s) := by
  unfold Machine.entryEnded
  split
  · exact .parts s _ s.pool s.egress s.roll
  · exact .refl s

theorem SameBut.generatorTake (c : Class) (s : State) : SameBut s (generatorTake c s).2 := by
  unfold Machine.generatorTake
  split <;> exact .parts s s.report _ s.egress s.roll

theorem SameBut.enqueue (p : Port) (c : Class) (b : Nat) (m : Mark) (s : State) : SameBut s (enqueue p c b m s) := by
  unfold Machine.enqueue
  split
  · exact (SameBut.setEg s p _).trans (.entryEnded m _)
  · split
    · exact (SameBut.setEg s p _).trans (.entryEnded m _)
    · exact .parts s s.report _ _ s.roll

theorem SameBut.enqueueRing (e w : Bool) (c : Class) (b : Nat) (m : Mark) (s : State) :
    SameBut s (enqueueRing e w c b m s) := by
  unfold Machine.enqueueRing
  dsimp only
  refine SameBut.trans ?_ (.release b _)
  cases e <;> cases w
  · exact .refl s
  · exact .enqueue ..
  · exact .enqueue ..
  · exact (SameBut.enqueue .east c b m s).trans (.enqueue ..)

theorem SameBut.sendLocal (b : Nat) (c : List Byte) (r : Bool) (s : State) : SameBut s (sendLocal b c r s) :=
  ((SameBut.fillBuffer b _ false s).trans (.enqueue ..)).trans (.release b _)

theorem SameBut.composeLocal (c : State → List Byte) (r : Bool) (done : State → State)
    (hd : ∀ t, SameBut t (done t)) (s : State) : SameBut s (composeLocal c r done s) := by
  unfold Machine.composeLocal
  have h := SameBut.generatorTake .bulk s
  cases hg : Machine.generatorTake .bulk s with
  | mk o s' =>
    rw [hg] at h
    cases o with
    | none => exact h.trans (.restartHold s')
    | some buf => exact (h.trans (.sendLocal buf _ r s')).trans (hd _)

theorem SameBut.reportMade (s : State) : SameBut s (reportMade s) :=
  (SameBut.countReport _ s).trans (.restartHold _)

theorem SameBut.composeWaiting (s : State) : SameBut s (composeWaiting s) := by
  unfold Machine.composeWaiting
  split
  · exact .composeLocal _ false _ (fun t => (SameBut.parts t _ t.pool t.egress t.roll).trans (.reportMade _)) s
  · split
    · exact .composeLocal _ false _ (fun t => (SameBut.parts t _ t.pool t.egress t.roll).trans (.reportMade _)) s
    · exact .refl s

theorem SameBut.reportService (s : State) : SameBut s (reportService s) := by
  unfold Machine.reportService
  split
  · exact .composeWaiting s
  · exact .refl s

/-- The end of a command that takes no start leaves everything but the report unit, the pool and the egress
schedulers. -/
theorem SameBut.settle {s : State} (h : s.report.restartDue = false) : SameBut s (settle s) := by
  unfold Machine.settle
  rw [h]
  exact (SameBut.reportService s).trans (.parts _ _ (Machine.reportService s).pool
    (Machine.reportService s).egress (Machine.reportService s).roll)

/-! ## Rounds -/

theorem SameBut.closeRound (s : State) : SameBut s (closeRound s) :=
  ((SameBut.parts s s.report s.pool s.egress _).trans (.addNotice _ _)).trans (.note .roll _)

theorem SameBut.sendRoll (s : State) : SameBut s (sendRoll s).2 := by
  unfold Machine.sendRoll
  have h := SameBut.generatorTake .urgent s
  cases hg : Machine.generatorTake .urgent s with
  | mk o s' =>
    rw [hg] at h
    cases o with
    | none => exact h
    | some buf => exact (h.trans (.fillBuffer buf _ false s')).trans (.enqueueRing ..)

theorem SameBut.beginRound (c : RollCause) (s : State) : SameBut s (beginRound c s) := by
  unfold Machine.beginRound
  dsimp only
  refine SameBut.trans (SameBut.trans ?_ (.addNotice _ _)) (.note .roll _)
  have h : SameBut s (openRound c s) := .parts s s.report s.pool s.egress _
  split
  · exact h
  · exact h.trans (.sendRoll _)

theorem SameBut.startLastRound (c : RollCause) (s : State) : SameBut s (startLastRound c s) := by
  unfold Machine.startLastRound
  dsimp only
  split
  · exact (SameBut.beginRound c s).trans (.closeRound _)
  · exact .beginRound c s

theorem SameBut.endRound (s : State) : SameBut s (endRound s) := by
  unfold Machine.endRound
  dsimp only
  have h : SameBut s (Machine.closeRound { s with roll := { s.roll with again := false } }) :=
    (SameBut.parts s s.report s.pool s.egress _).trans (.closeRound _)
  split
  · exact h.trans (.startLastRound ..)
  · exact h

theorem SameBut.startRound (c : RollCause) (s : State) : SameBut s (startRound c s) := by
  unfold Machine.startRound
  dsimp only
  split
  · exact (SameBut.beginRound c s).trans (.endRound _)
  · exact .beginRound c s

theorem SameBut.autoTrigger (s : State) : SameBut s (autoTrigger s) := by
  unfold Machine.autoTrigger
  split
  · exact .parts s s.report s.pool s.egress _
  · exact .startRound .auto s

theorem SameBut.ringChanged (s : State) : SameBut s (ringChanged s) := by
  unfold Machine.ringChanged
  dsimp only
  split
  · exact ((SameBut.note .ring s).trans (.reportService _)).trans (.autoTrigger _)
  · exact .note .ring s

/-- Telling of changed lanes, with what follows from it, leaves the rest. -/
theorem SameBut.tellLanes (o : RingCheck) (s : State) : SameBut s (tellLanes o s) := by
  unfold Machine.tellLanes
  dsimp only
  have h := (SameBut.noteIf (s.check.lanes.e.state != o.lanes.e.state) (.lane .e) s).trans
    (.noteIf (s.check.lanes.w.state != o.lanes.w.state) (.lane .w) _)
  split
  · exact h
  · exact h.trans (.ringChanged _)

/-! ## Noted items -/

/-- Notes change the report unit alone. -/
theorem foldl_note_sameBut (l : List Item) (s : State) : SameBut s (l.foldl (fun u i => note i u) s) := by
  induction l generalizing s with
  | nil => exact .refl s
  | cons i l ih => exact (SameBut.note i s).trans (ih _)

/-- The notes of a list of items depend on the node state and the change list alone. -/
theorem foldl_note_lists (l : List Item) (s t : State) (hn : s.loader.nodeState = t.loader.nodeState)
    (hc : s.report.changes = t.report.changes) (hm : s.report.more = t.report.more) :
    (l.foldl (fun u i => note i u) s).report.changes = (l.foldl (fun u i => note i u) t).report.changes ∧
      (l.foldl (fun u i => note i u) s).report.more = (l.foldl (fun u i => note i u) t).report.more := by
  induction l generalizing s t with
  | nil => exact ⟨hc, hm⟩
  | cons i l ih =>
    have hi : (note i s).report.changes = (note i t).report.changes ∧ (note i s).report.more = (note i t).report.more := by
      unfold note
      rw [hn, hc]
      split
      · exact ⟨hc, hm⟩
      · split
        · exact ⟨rfl, hm⟩
        · exact ⟨hc, rfl⟩
    exact ih _ _ (by rw [note_loader, note_loader, hn]) hi.1 hi.2

/-- Where no trigger follows, the telling of changed lanes is the notes of R137, E's, W's and the ring's, and nothing
else. -/
theorem tellLanes_eq_notes (old : RingCheck) (s : State) (h : s.check.ring = old.ring ∨ s.cfg.autoRoll = false) :
    tellLanes old s = (old.changedItems s.check).foldl (fun u i => note i u) s := by
  unfold tellLanes ringChanged noteIf RingCheck.changedItems
  by_cases he : s.check.lanes.e.state = old.lanes.e.state <;>
    by_cases hw : s.check.lanes.w.state = old.lanes.w.state <;>
    by_cases hr : s.check.ring = old.ring <;>
    simp_all [State.cfg, note_loader]

end Sys2Proof.Machine
end

