-- ==== Sys2Proof/Laws/KeptExec.lean ====
section
/-! SUPPORT. A property that survives the updates of `Kept` survives every command and every step. -/

namespace Sys2Proof.Machine

variable {L : State → Prop}

/-! ## Egress -/

theorem Transmitter.not_repeating {t : Transmitter} {now : Nat} (h : t.isFree now = true) :
    ∀ f l d, t ≠ .repeating f l d := by rintro f l d rfl; simp [Transmitter.isFree] at h

theorem KeptInside.startTransmission (k : KeptInside L) (p : Port) (e : Entry) {s : State}
    (hd : s.isDown p = false) (ht : ∀ f l d, (s.eg p).tx ≠ .repeating f l d) (h : L s) :
    L (startTransmission p e s) :=
  k.egress s p _ ⟨fun c => .inl (by cases c <;> exact List.Sublist.refl _), .inr ⟨.inl hd, ht, by intros; simp⟩⟩ h

theorem KeptInside.dequeue (k : KeptInside L) (p : Port) (e : Egress) {s : State} (h : L s)
    (hu : e.urgent.Sublist (s.eg p).urgent) (hs : e.stream.Sublist (s.eg p).stream)
    (hb : e.bulk.Sublist (s.eg p).bulk) (ht : e.tx = (s.eg p).tx) : L (s.setEg p e) :=
  k.egress s p _ ⟨fun c => .inl (by cases c <;> assumption), .inl ht⟩ h

theorem KeptInside.markChosen (k : KeptInside L) (p : Port) {s : State} (h : L s) : L (markChosen p s) :=
  k.dequeue p _ h (List.Sublist.refl _) (List.Sublist.refl _) (List.Sublist.refl _) rfl

/-- What lets an arbiter choose. -/
theorem State.mayChoose_iff {s : State} {p : Port} : s.mayChoose p = true ↔
    s.isDown p = false ∧ (s.eg p).tx.isFree s.clock.refclk = true ∧ (s.eg p).hasEntry = true ∧
      ((s.eg p).chosen = true ∨ s.repeaterHolds p = false) := by
  simp [State.mayChoose, and_assoc]

theorem releases_eq (es : List Entry) (s : State) :
    ∃ q, es.foldl (fun t e => release e.buf t) s = { s with pool := q } := by
  induction es generalizing s with
  | nil => exact ⟨s.pool, rfl⟩
  | cons e es ih => obtain ⟨q, hq⟩ := ih (release e.buf s); exact ⟨q, hq⟩

theorem KeptInside.releases (k : KeptInside L) (es : List Entry) {s : State} (h : L s) :
    L (es.foldl (fun t e => Machine.release e.buf t) s) := by
  induction es generalizing s with
  | nil => exact h
  | cons e es ih => exact ih (k.release _ h)

theorem KeptInside.chooseLower (k : KeptInside L) (p : Port) {s : State} (hd : s.isDown p = false)
    (ht : ∀ f l d, (s.eg p).tx ≠ .repeating f l d) (h : L s) : L (chooseLower p s) := by
  unfold Machine.chooseLower
  dsimp only
  generalize tooOld s.cfg.profile.streamAge s.clock.timerUnits = old
  have h1 := k.releases ((s.eg p).stream.takeWhile old)
    (k.dequeue p { s.eg p with
      stream := (s.eg p).stream.dropWhile old
      counters := { (s.eg p).counters with
        aged := raiseBy ((s.eg p).stream.takeWhile old).length (s.eg p).counters.aged } } h
      (List.Sublist.refl _) (List.dropWhile_sublist _) (List.Sublist.refl _) rfl)
  obtain ⟨q, hq⟩ := releases_eq ((s.eg p).stream.takeWhile old) (s.setEg p { s.eg p with
      stream := (s.eg p).stream.dropWhile old
      counters := { (s.eg p).counters with
        aged := raiseBy ((s.eg p).stream.takeWhile old).length (s.eg p).counters.aged } })
  rw [hq] at h1 ⊢
  have he : ∀ e : Egress, ({ s.setEg p e with pool := q } : State).eg p = e := by
    intro e; exact (eg_setEg s p p e).trans (if_pos rfl)
  split
  · rename_i e rest heq
    refine k.startTransmission p e ?_ ?_ (k.dequeue p _ h1 ?_ ?_ ?_ rfl)
    · exact hd
    · rw [eg_setEg, if_pos rfl, he]; exact ht
    · rw [he]
    · rw [he, heq]; exact List.sublist_cons_self _ _
    · rw [he]
  · rename_i e rest hk hb
    refine k.startTransmission p e ?_ ?_ (k.dequeue p _ h1 ?_ ?_ ?_ rfl)
    · exact hd
    · rw [eg_setEg, if_pos rfl, he]; exact ht
    · rw [he]
    · rw [he]
    · rw [hb]; exact List.sublist_cons_self _ _
  · exact h1

theorem KeptInside.choose (k : KeptInside L) (p : Port) {s : State} (hd : s.isDown p = false)
    (ht : ∀ f l d, (s.eg p).tx ≠ .repeating f l d) (h : L s) : L (choose p s) := by
  unfold Machine.choose
  split
  · rename_i e rest heq
    refine k.startTransmission p e hd ?_ (k.dequeue p _ h ?_ (List.Sublist.refl _) (List.Sublist.refl _) rfl)
    · rw [eg_setEg, if_pos rfl]; exact ht
    · rw [heq]; exact List.sublist_cons_self _ _
  · exact k.chooseLower p hd ht h

theorem KeptInside.completeTransmission (k : KeptInside L) (p : Port) (buf : Nat) (m : Mark) (d : Nat) {s : State}
    (ht : ∃ b n x y, (s.eg p).tx = .sending b n x y) (h : L s) : L (completeTransmission p buf m d s) := by
  obtain ⟨b, n, x, y, ht⟩ := ht
  exact k.entryEnded _ (k.release _ (k.countEg _ _ (k.egress s p _
    ⟨fun c => .inl (by cases c <;> exact List.Sublist.refl _), .inr ⟨.inr (by simp [ht]), by simp [ht], by simp⟩⟩ h)))

/-! ## Reception and repeater -/

theorem KeptInside.storeStart (k : KeptInside L) (p : Port) {s : State} (hd : s.isDown p = false)
    (hi : (s.port p).rx = .idle) (h : L s) : L (storeStart p s) := by
  unfold Machine.storeStart
  split
  · exact k.indEvent _ _ (k.countPort _ _ (k.port s p _ (.start _ (State.not_down hd) hi (by simp)) h))
  · rename_i hf
    exact k.port { s with pool := s.pool.take.2 } p _ (.start _ (State.not_down hd) hi (by simp))
      (k.pool s _ (.take (by unfold State.free at hf; omega)) h)

theorem KeptInside.repeatStart (k : KeptInside L) (p : RingPort) {s : State} (hd : s.isDown p.port = false)
    (hi : (s.port p.port).rx = .idle) (h : L s) : L (repeatStart p s) := by
  unfold Machine.repeatStart
  dsimp only
  split
  · exact k.repeatTake s p true (by assumption) hi hd h
  · split
    · exact k.repeatTake s p false (by assumption) hi hd h
    · exact k.port s p.port _ (.start _ (State.not_down hd) hi (by simp)) h

theorem KeptInside.startReception (k : KeptInside L) (p : Port) {s : State} (hd : s.isDown p = false)
    (hi : (s.port p).rx = .idle) (h : L s) : L (startReception p s) := by
  unfold Machine.startReception
  split
  · rename_i r hr
    split
    · exact k.storeStart p hd hi h
    · have := Port.ring_port hr; subst this; exact k.repeatStart r hd hi h
  · split
    · exact k.port s p _ (.start _ (State.not_down hd) hi (by simp)) h
    · exact k.storeStart p hd hi h

theorem KeptInside.originate (k : KeptInside L) (buf : Nat) (c : Class) {s : State} (h : L s) :
    L (originate buf c s) := by
  unfold Machine.originate
  dsimp only
  split
  · exact k.enqueueRing _ _ _ _ _ (k.tagger _ _ (k.tagger _ _ h))
  · exact k.release _ (k.tagger _ _ h)

theorem KeptInside.tapPath (k : KeptInside L) (buf : Nat) (f : List Byte) {s : State} (h : L s) :
    L (tapPath buf f s) := by
  unfold Machine.tapPath
  dsimp only
  split
  · exact k.commandIn _ _ h
  · split
    · split
      · exact k.originate _ _ h
      · exact k.refuseAdmission _ (k.release _ h)
    · exact k.release _ h

theorem KeptInside.handOn (k : KeptInside L) (p : Port) (buf : Nat) (b : List Byte) {s : State} (h : L s) :
    L (handOn p buf b s) := by
  have h1 := k.fillBuffer buf b true (k.countPort p (fun c => { c with rxGood := raise c.rxGood }) h)
  unfold Machine.handOn
  dsimp only
  split
  · exact k.handed _ _ h1
  · exact k.tapPath _ _ h1

theorem KeptInside.endFrame (k : KeptInside L) (p : Port) (b : List Byte) (n : Nat) {s : State}
    (hi : (s.port p).rx ≠ .idle) (h : L s) : L (endFrame p b n s) := by
  unfold Machine.endFrame
  dsimp only
  split
  · rename_i ho
    rw [ho]
    unfold intactFrame
    split
    · rename_i buf _ hrx
      exact k.handOn _ _ _ (k.endIntact s p hi (by simp [hrx]) h)
    · rename_i f r hrx hr
      have hp := Port.ring_port hr; subst hp
      unfold repeatEnd
      split
      · exact k.lost _ _ _ (k.repeatLoses s r f hrx h)
      · exact k.startRepeat _ _ (k.repeatJoins s r f b hrx h)
    · rename_i g r hrx hr
      exact k.lost _ _ _ (k.endIntact s p hi (by simp [hrx]) h)
    · rename_i h1 h2 h3
      refine k.endIntact s p hi ?_ h
      intro f hr hrx
      obtain ⟨r, hr⟩ := Option.isSome_iff_exists.mp hr
      exact h2 f r hrx hr
  · exact k.endError s p _ hi h

/-! ## Roll unit -/

theorem KeptInside.closeRound (k : KeptInside L) {s : State} (ha : s.roll.again = false) (h : L s) :
    L (closeRound s) := k.note _ (k.addNotice _ (k.roll s _ (.closes _ rfl ha) h))

theorem KeptInside.sendRoll (k : KeptInside L) {s : State} (h : L s) : L (sendRoll s).2 := by
  have ht := k.generatorTake .urgent h
  unfold Machine.sendRoll
  split
  · rename_i heq; rw [heq] at ht; exact ht
  · rename_i heq; rw [heq] at ht; exact k.enqueueRing _ _ _ _ _ (k.fillBuffer _ _ _ ht)

theorem KeptInside.beginRound (k : KeptInside L) (c : RollCause) {s : State} (h : L s) : L (beginRound c s) := by
  have ho : L (openRound c s) := k.roll s _ (.opens c _ _ _ _ _) h
  unfold Machine.beginRound
  dsimp only
  refine k.note _ (k.addNotice _ ?_)
  split
  · exact ho
  · exact k.sendRoll ho

/-- Composing, queueing, noting and noticing leave the roll unit. -/
theorem roll_kept_note (i : Item) (s : State) : (note i s).roll = s.roll := by unfold note; split <;> [rfl; split <;> rfl]

theorem addNotice_roll (n : Notice) (s : State) : (addNotice n s).roll = s.roll := by
  unfold addNotice; split <;> rfl

theorem entryEnded_roll (m : Mark) (s : State) : (entryEnded m s).roll = s.roll := by
  unfold entryEnded; split <;> rfl

theorem enqueue_roll (p : Port) (c : Class) (b : Nat) (m : Mark) (s : State) :
    (enqueue p c b m s).roll = s.roll := by
  unfold enqueue; split
  · exact entryEnded_roll _ _
  · split
    · exact entryEnded_roll _ _
    · rfl

theorem enqueueRing_roll (e w : Bool) (c : Class) (b : Nat) (m : Mark) (s : State) :
    (enqueueRing e w c b m s).roll = s.roll := by
  unfold enqueueRing; cases e <;> cases w <;> simp [enqueue_roll]

theorem generatorTake_roll (c : Class) (s : State) : (generatorTake c s).2.roll = s.roll := by
  unfold generatorTake; split <;> rfl

theorem sendRoll_roll (s : State) : (sendRoll s).2.roll = s.roll := by
  have ht := generatorTake_roll .urgent s
  unfold sendRoll
  split
  · rename_i heq; rw [heq] at ht; exact ht
  · rename_i heq; rw [heq] at ht
    simpa [enqueueRing_roll] using ht

theorem beginRound_roll (c : RollCause) (s : State) : (beginRound c s).roll = (openRound c s).roll := by
  unfold beginRound; dsimp only
  rw [roll_kept_note, addNotice_roll]
  split
  · rfl
  · exact sendRoll_roll _

theorem closeRound_again (s : State) : (closeRound s).roll.again = s.roll.again := by
  unfold closeRound; dsimp only
  rw [roll_kept_note, addNotice_roll]

theorem KeptInside.startLastRound (k : KeptInside L) (c : RollCause) {s : State} (ha : s.roll.again = false)
    (h : L s) : L (startLastRound c s) := by
  have hb := k.beginRound c h
  unfold Machine.startLastRound
  dsimp only
  split
  · refine k.closeRound ?_ hb
    rw [beginRound_roll]; exact ha
  · exact hb

theorem KeptInside.endRound (k : KeptInside L) {s : State} (h : L s) : L (endRound s) := by
  have hc := k.closeRound (s := { s with roll := { s.roll with again := false } }) rfl (k.roll s _ .clear h)
  unfold Machine.endRound
  dsimp only
  split
  · exact k.startLastRound _ (by rw [closeRound_again]) hc
  · exact hc

theorem KeptInside.startRound (k : KeptInside L) (c : RollCause) {s : State} (h : L s) : L (startRound c s) := by
  have hb := k.beginRound c h
  unfold Machine.startRound
  dsimp only
  split
  · exact k.endRound hb
  · exact hb

theorem KeptInside.autoTrigger (k : KeptInside L) {s : State} (h : L s) : L (autoTrigger s) := by
  unfold Machine.autoTrigger
  split
  · rename_i hr; exact k.roll s _ (.again hr) h
  · exact k.startRound _ h

theorem KeptInside.discardRoll (k : KeptInside L) (b : Nat) (f : RollCounters → RollCounters) {s : State} (h : L s) :
    L (discardRoll b f s) := k.release _ (k.countRoll _ h)

theorem KeptInside.passRoll (k : KeptInside L) (p : RingPort) (b : Nat) (x y : List Byte) {s : State} (h : L s) :
    L (passRoll p b x y s) := by
  have ht := k.generatorTake .urgent h
  unfold Machine.passRoll
  split
  · rename_i heq; rw [heq] at ht; exact k.release _ ht
  · rename_i heq; rw [heq] at ht
    dsimp only
    refine k.release _ ?_
    split
    · exact k.release _ (k.enqueue _ _ _ _ (k.fillBuffer _ _ _ ht))
    · split
      · exact k.release _ (k.enqueue _ _ _ _ (k.countRoll _ (k.fillBuffer _ _ _ ht)))
      · exact k.release _ (k.countRoll _ ht)

theorem KeptInside.outwardRoll (k : KeptInside L) (p : RingPort) (b : Nat) {s : State} (h : L s) :
    L (outwardRoll p b s) := by
  unfold Machine.outwardRoll
  dsimp only
  split
  · exact k.discardRoll _ _ h
  · split
    · exact k.passRoll _ _ _ _ h
    · exact k.passRoll _ _ _ _ (k.countRoll _ h)

theorem KeptInside.homewardRoll (k : KeptInside L) (p : RingPort) (b : Nat) {s : State} (h : L s) :
    L (homewardRoll p b s) := by
  unfold Machine.homewardRoll
  split
  · exact k.discardRoll _ _ h
  · exact k.release _ (k.enqueue _ _ _ _ h)

theorem rollEntries_length (f : List Byte) : (rollEntries f).length = rollCount f := by simp [rollEntries]

theorem KeptInside.takeRoll (k : KeptInside L) (p : RingPort) (b : Nat) (t : Trailer) (f : List Byte) {s : State}
    (hr : s.roll.running = true) (hf : rollListFits f = true) (h : L s) : L (takeRoll p b t f s) := by
  unfold Machine.takeRoll
  split
  · exact k.discardRoll _ _ h
  · rename_i r hres
    have hlaw : RollLane.Law { result := r, entries := rollEntries f, full := rollFull f } := by
      refine ⟨?_, ?_⟩
      · rw [rollEntries_length]
        simp only [rollListFits, Bool.and_eq_true, decide_eq_true_eq] at hf
        exact hf.1
      · intro hn
        unfold rollResult at hres
        split at hres
        · simp at hres
        · split at hres <;> split at hres <;> simp_all
    generalize hln : ({ result := r, entries := rollEntries f, full := rollFull f } : RollLane) = ln at hlaw
    have h1 : L { s with roll := { s.roll with lanes := s.roll.lanes.set t.lane ln } } := by
      refine k.roll s _ (.lanes _ hr ?_ ?_) h
      · cases t.lane
        · exact .inr hlaw
        · exact .inl rfl
      · cases t.lane
        · exact .inl rfl
        · exact .inr hlaw
    dsimp only
    split
    · exact k.endRound (k.release _ h1)
    · exact k.release _ h1

theorem RollLane.timedOut_law (l : RollLane) : l.timedOut = l ∨ l.timedOut.Law := by
  unfold RollLane.timedOut
  split
  · exact .inr ⟨by simp, by simp⟩
  · exact .inl rfl

theorem KeptInside.haltRound (k : KeptInside L) {s : State} (h : L s) : L (haltRound s) := by
  unfold Machine.haltRound
  split
  · exact k.note _ (k.addNotice _ (k.roll s _ (.halts _) h))
  · exact h

/-! ## Ring check unit and time base -/

theorem KeptInside.ringChanged (k : KeptInside L) {s : State} (h : L s) : L (ringChanged s) := by
  unfold Machine.ringChanged
  dsimp only
  split
  · exact k.autoTrigger (k.reportService (k.note _ h))
  · exact k.note _ h

theorem KeptInside.tellLanes (k : KeptInside L) (o : RingCheck) {s : State} (h : L s) : L (tellLanes o s) := by
  unfold Machine.tellLanes
  dsimp only
  split
  · exact k.noteIf _ _ (k.noteIf _ _ h)
  · exact k.ringChanged (k.noteIf _ _ (k.noteIf _ _ h))

theorem KeptInside.judgePeriod (k : KeptInside L) {s : State} (hm : s.member = true ∨ s.check ≠ {}) (h : L s) :
    L (judgePeriod s) := k.tellLanes _ (k.lanes s _ _ .judge .judge hm h)

theorem judgePeriod_loader (s : State) : (judgePeriod s).loader = s.loader := by
  unfold judgePeriod
  exact (loader_kept s.loader).tellLanes _ rfl

theorem KeptInside.sendCheck (k : KeptInside L) {s o : State} (ho : L o) (hl : o.loader = s.loader)
    (hm : o.member = true ∨ o.check ≠ {}) (h : L s) : L (sendCheck s) := by
  have ht := k.generatorTake .urgent h
  have hg := generatorTake_loader .urgent s
  unfold Machine.sendCheck
  dsimp only
  split
  · split
    · rename_i heq; rw [heq] at ht; exact ht
    · rename_i buf s' heq; rw [heq] at ht hg
      have h1 := k.enqueueRing (!s.isDown .east) (!s.isDown .west) .urgent buf
        (internalMark .check s'.check.number s') (k.fillBuffer buf (pad60 (checkContent s')) false ht)
      refine k.check _ o _ ⟨rfl, ?_, ?_, ?_, ?_⟩ h1 ho ?_ hm
      · simp only [CheckLane.countSent]; split <;> rfl
      · simp only [CheckLane.countSent]; split <;> rfl
      · simp only [CheckLane.countSent]; split <;> rfl
      · simp only [CheckLane.countSent]; split <;> rfl
      · rw [enqueueRing_loader, fillBuffer_loader, hg, hl]
  · exact h

theorem KeptInside.beginPeriod (k : KeptInside L) (t : Option Timer) {s o : State} (ho : L o)
    (hl : o.loader = s.loader) (hm : o.member = true ∨ o.check ≠ {}) (h : L s) : L (beginPeriod t s) := by
  refine k.sendCheck ho hl hm ?_
  exact k.check s o _ ⟨rfl, rfl, rfl, rfl, rfl⟩ h ho hl hm

theorem KeptInside.changeLane (k : KeptInside L) (x : Lane) (f : CheckLane → CheckLane) {s : State}
    (hm : s.member = true)
    (hf : LaneStep s.cfg.profile.missLimit s.ringPortDown (s.check.lanes.get x) (f (s.check.lanes.get x)))
    (h : L s) : L (changeLane x f s) := by
  unfold Machine.changeLane
  cases x
  · exact k.tellLanes _ (k.lanes s _ _ hf .same (.inl hm) h)
  · exact k.tellLanes _ (k.lanes s _ _ .same hf (.inl hm) h)

theorem KeptInside.takeReturn (k : KeptInside L) (t : Trailer) (a b : Stamp) {s : State} (hm : s.member = true)
    (h : L s) : L (takeReturn t a b s) := by
  unfold Machine.takeReturn
  split
  · exact k.changeLane _ _ hm (.counted _) h
  · exact k.changeLane _ _ hm .late h

theorem KeptInside.sendTime (k : KeptInside L) {s : State} (h : L s) : L (sendTime s) := by
  have ht := k.generatorTake .urgent h
  unfold Machine.sendTime
  dsimp only
  split
  · split
    · rename_i heq; rw [heq] at ht; exact ht
    · rename_i buf s' heq; rw [heq] at ht
      exact k.clock _ _ _ (k.enqueueRing _ _ _ _ _ (k.tagger _ _ (k.fillBuffer _ _ _ ht)))
  · exact h

theorem KeptInside.loadTime (k : KeptInside L) (c : Stamp) (n : BitVec 6) {s : State} (h : L s) :
    L (loadTime c n s) := k.clock s _ _ h

/-! ## Source table, stream watch, ring filter -/

theorem KeptInside.requestVerdict (k : KeptInside L) (t : Trailer) (a : Stamp) {s : State} (h : L s) :
    L (requestVerdict t a s).2 := k.noteIf _ _ (k.judge s _ _ _ _ _ _ _ h)

theorem KeptInside.updateSlot (k : KeptInside L) (n : Nat) (w : Slot) {s : State} (hn : n < 32)
    (hw : SlotStep (s.slot n) w) (h : L s) : L (updateSlot n w s) := k.noteIf _ _ (k.slot s n w hn hw h)

theorem KeptInside.tellStreamWatch (k : KeptInside L) (n : CopyNotice) {s : State} (h : L s) :
    L (tellStreamWatch n s) := by
  unfold Machine.tellStreamWatch
  split
  · exact h
  · rename_i i hi
    obtain ⟨hlt, hcov, _⟩ := List.findIdx?_eq_some_iff_getElem.mp hi
    have h32 : i < 32 := by simpa using hlt
    refine k.updateSlot i _ h32 (.take _ _ ?_) h
    have : s.slot i = s.slots.toList[i] := by simp [State.slot, h32]
    rw [this]
    simp only [Slot.covers, Bool.and_eq_true] at hcov
    exact hcov.1.1.1

theorem KeptInside.deliver (k : KeptInside L) (p : RingPort) (b : Nat) (c : Class) (f : List Byte) {s : State}
    (h : L s) : L (deliver p b c f s) := by
  unfold Machine.deliver; split
  · exact k.enqueue _ _ _ _ (k.countFilter _ _ h)
  · exact k.countFilter _ _ h

theorem KeptInside.forward (k : KeptInside L) (p : RingPort) (b : Nat) (c : Class) {s : State} (h : L s) :
    L (forward p b c s) := by
  unfold Machine.forward; split
  · exact k.countFilter _ _ h
  · exact k.enqueue _ _ _ _ (k.countFilter _ _ h)

theorem KeptInside.clashFrame (k : KeptInside L) (b : Nat) {s : State} (h : L s) : L (clashFrame b s) :=
  k.release _ (k.noteIf _ _ (k.filter _ _ h))

theorem KeptInside.ownFrame (k : KeptInside L) (p : RingPort) (x : Handed) (kd : Kind) (b : Buffer) {s : State}
    (hm : s.member = true) (h : L s) : L (ownFrame p x kd b s) := by
  unfold Machine.ownFrame
  split
  · split
    · exact k.release _ (k.countFilter _ _ h)
    · exact k.clashFrame _ h
  · split
    · exact k.release _ (k.countFilter _ _ h)
    · exact k.clashFrame _ h
  · split
    · exact k.release _ (k.takeReturn _ _ _ hm h)
    · exact k.clashFrame _ h
  · exact k.rollIn _ _ h

theorem KeptInside.peerData (k : KeptInside L) (p : RingPort) (x : Handed) (b : Buffer) (e : Bool) {s : State}
    (h : L s) : L (peerData p x b e s) := by
  have hr := k.requestVerdict b.trailer x.arrival h
  unfold Machine.peerData
  dsimp only
  split
  · exact k.release _ hr
  · exact k.release _ hr
  · have h1 := k.tellStreamWatch ⟨false, b.trailer.source, b.trailer.seq, b.trailer.lane,
      classOfField b.trailer.cls, appidField b.body, x.arrival⟩ hr
    refine k.release _ ?_
    split
    · exact h1
    · exact k.forward _ _ _ h1
  · have h1 := k.deliver p x.buf (classOfField b.trailer.cls) b.body (k.tellStreamWatch ⟨true, b.trailer.source,
      b.trailer.seq, b.trailer.lane, classOfField b.trailer.cls, appidField b.body, x.arrival⟩ hr)
    refine k.release _ ?_
    split
    · exact h1
    · exact k.forward _ _ _ h1

theorem KeptInside.peerTime (k : KeptInside L) (p : RingPort) (x : Handed) (b : Buffer) (e : Bool) {s : State}
    (h : L s) : L (peerTime p x b e s) := by
  have hr := k.requestVerdict b.trailer x.arrival h
  unfold Machine.peerTime
  dsimp only
  split
  · exact k.release _ hr
  · exact k.release _ hr
  · refine k.release _ ?_
    split
    · exact hr
    · exact k.forward _ _ _ hr
  · refine k.release _ ?_
    split <;> split <;>
      first
      | exact k.loadTime _ _ hr
      | exact hr
      | exact k.forward _ _ _ (k.loadTime _ _ hr)
      | exact k.forward _ _ _ hr

theorem KeptInside.peerFrame (k : KeptInside L) (p : RingPort) (x : Handed) (kd : Kind) (b : Buffer) {s : State}
    (h : L s) : L (peerFrame p x kd b s) := by
  have h1 : L (countExpired p (isExpired b.trailer s) s) := by
    unfold countExpired; split
    · exact k.countFilter _ _ h
    · exact h
  unfold Machine.peerFrame
  dsimp only
  split
  · exact k.peerData _ _ _ _ h1
  · exact k.peerTime _ _ _ _ h1
  · refine k.release _ ?_
    split
    · exact h1
    · exact k.forward _ _ _ h1
  · split
    · exact k.release _ h1
    · exact k.rollIn _ _ h1

theorem crossedMark_loader (p : RingPort) (c : Bool) (s : State) : (crossedMark p c s).loader = s.loader := by
  unfold crossedMark; split
  · exact indEvent_loader _ _ _
  · rfl

theorem KeptInside.filterFrame (k : KeptInside L) (p : RingPort) (x : Handed) {s : State} (hm : s.member = true)
    (h : L s) : L (filterFrame p x s) := by
  unfold Machine.filterFrame
  dsimp only
  split
  · exact k.release _ (k.indEvent _ _ (k.countFilter _ _ h))
  · rename_i kd _
    have h1 : L (crossedMark p (isCrossed p kd (s.buffer x.buf)) s) := by
      unfold crossedMark; split
      · exact k.indEvent _ _ (k.countFilter _ _ h)
      · exact h
    split
    · exact k.refuseAdmission _ (k.release _ h1)
    · split
      · refine k.ownFrame _ _ _ _ ?_ h1
        unfold State.member at hm ⊢
        rw [crossedMark_loader]; exact hm
      · exact k.peerFrame _ _ _ _ h1

/-! ## Loader -/

theorem Kept.startMember (k : Kept L) {s : State} (hm : s.member = true) (h : L s) : L (startMember s) := by
  have h1 := k.report s { s.report with period := reportPeriodTimer s } (.of_eq rfl rfl rfl) h
  have h2 := k.beginPeriod (some (s.clock.timer s.checkPeriod)) h1 rfl (.inl hm) h1
  unfold Machine.startMember
  dsimp only
  split
  · exact k.sendTime (k.clock _ _ _ h2)
  · exact h2

theorem Kept.loaded (k : Kept L) {s : State} (h : L s) :
    L (if (note .nodeState s).member then Machine.startMember (note .nodeState s) else note .nodeState s) := by
  have h1 := k.note .nodeState h
  split
  · exact k.startMember (by assumption) h1
  · exact h1

theorem Kept.endLoading (k : Kept L) {s : State} (hn : s.loader.nodeState = .loading) (h : L s) :
    L (endLoading s) := by
  unfold Machine.endLoading
  split
  · exact h
  · exact k.loaded (k.fix s _ hn (by assumption) h)

theorem Kept.imageDecided (k : Kept L) {s : State} {l : Loader} (hi : s.loadingIn .image = true)
    (hl : Decided s.loader l) (h : L s) : L (imageDecided l s) := by
  obtain ⟨d, hd⟩ : ∃ d, l.draft = some d := by cases hl <;> exact ⟨_, rfl⟩
  unfold Machine.imageDecided
  dsimp only
  rw [hd]
  dsimp only
  split
  · unfold Machine.endLoading
    dsimp only
    rw [hd]
    exact k.loaded (k.transit s l d hi hl hd h)
  · exact k.decides s l d hi hl hd h

theorem Kept.endAttempt (k : Kept L) (r : ImageStatus × List Byte) (ops : List BusOp) {s : State}
    (hi : s.loadingIn .image = true) (h : L s) : L (endAttempt r ops s) := by
  unfold Machine.endAttempt
  dsimp only
  split
  · exact k.imageDecided hi (.good r.2 r.1 ops) h
  · split
    · exact k.retry s r.1 ops hi (by assumption) h
    · exact k.imageDecided hi (.bad r.1 ops) h

theorem Kept.fixEpoch (k : Kept L) (b : Byte) {s : State} (hn : s.loader.nodeState = .loading) (h : L s) :
    L (fixEpoch b s) :=
  k.begins _ _ hn (by simp) (by simp)
    (k.minor s b ((b + 1).setWidth 4) s.loader.warnings s.loader.pollTimer s.loader.bus hn h)

theorem Kept.endTransaction (k : Kept L) (ops : List BusOp) {s : State} (hn : s.loader.nodeState = .loading) (h : L s) :
    L (endTransaction ops s) :=
  k.minor s s.loader.storedEpoch s.loader.ownEpoch s.loader.warnings s.loader.pollTimer ops hn h

theorem Kept.epochWriteFailed (k : Kept L) {s : State} (hn : s.loader.nodeState = .loading) (h : L s) :
    L (epochWriteFailed s) :=
  k.endLoading (s := { s with loader := { s.loader with warnings := { s.loader.warnings with epochWrite := true } } })
    hn (k.minor s s.loader.storedEpoch s.loader.ownEpoch { s.loader.warnings with epochWrite := true }
      s.loader.pollTimer s.loader.bus hn h)

theorem Kept.endEpochRead (k : Kept L) (f : Nat) (r : EpochRead) {s : State} (hn : s.loader.nodeState = .loading)
    (h : L s) : L (endEpochRead f r s) := by
  unfold Machine.endEpochRead
  dsimp only
  split
  · exact k.fixEpoch _ hn (k.endTransaction _ hn h)
  · split
    · exact k.begins _ _ hn (by simp) (by rintro g hg; cases hg; omega) (k.endTransaction _ hn h)
    · exact k.fixEpoch _ hn (k.minor s s.loader.storedEpoch s.loader.ownEpoch
        { s.loader.warnings with epochRead := true } s.loader.pollTimer _ hn h)

theorem Kept.endEpochWrite (k : Kept L) (f : Option BusFailure) {s : State} (hn : s.loader.nodeState = .loading)
    (h : L s) : L (endEpochWrite f s) := by
  unfold Machine.endEpochWrite
  dsimp only
  split
  · exact k.begins _ _ hn (by simp) (by simp)
      (k.minor s s.loader.storedEpoch s.loader.ownEpoch s.loader.warnings (some (s.clock.timer pollLength)) _ hn h)
  · exact k.epochWriteFailed hn (k.endTransaction _ hn h)

theorem State.loadingIn_state {s : State} {ph : LoadPhase} (h : s.loadingIn ph = true) :
    s.loader.nodeState = .loading ∧ s.loader.phase = ph := by simpa [State.loadingIn] using h

/-! ## The end of a command -/

theorem Kept.settle (k : Kept L) {s : State} (h : L s) : L (settle s) := by
  unfold Machine.settle; split
  · exact k.start s .command h
  · exact k.followConditions (k.reportService h)

/-- The outcome of a command is a next state with `L`. -/
def NextWith (L : State → Prop) (o : Host.Outcome State Fault Refusal) : Prop := ∃ t, o = .next t ∧ L t

theorem Kept.finish (k : Kept L) {s : State} (h : L s) : NextWith L (finish s) := ⟨_, rfl, k.settle h⟩

theorem Kept.carryOut (k : Kept L) (c : Byte → Bool) (f : State → State) (r : State → CommandResult) {s : State}
    (hf : L (f s)) (h : L s) : NextWith L (carryOut c f r s) := by
  refine k.finish ?_
  split
  · refine k.composeReply ?_
    unfold fixResult
    split
    · exact hf
    · rename_i heq
      exact k.report _ _ ⟨.inl rfl, .inl (by simp [heq]), .inl le_rfl⟩ hf
  · exact h

/-! ## Every command -/

theorem takeFirst_some {α : Type} {c : α → Bool} {l : List α} {r : α × List α} (h : takeFirst c l = some r) :
    c r.1 = true ∧ r.1 ∈ l := by
  induction l generalizing r with
  | nil => simp [takeFirst] at h
  | cons a l ih =>
    unfold takeFirst at h
    split at h
    · simp only [Option.some.injEq] at h; subst h; exact ⟨by assumption, by simp⟩
    · obtain ⟨x, hx, rfl⟩ := Option.map_eq_some_iff.mp h
      exact ⟨(ih hx).1, List.mem_cons_of_mem _ (ih hx).2⟩

theorem Clock.due_isSome {c : Clock} {t : Option Timer} (h : c.due t = true) : t.isSome = true := by
  cases t <;> simp_all [Clock.due]

theorem Kept.exec (k : Kept L) (i : Instr) {s : State} (h : L s) : NextWith L (exec i s) := by
  cases i with
  | powerOn r e w t st => exact ⟨_, rfl, k.start _ _ (k.pins s _ h)⟩
  | rstFall => exact ⟨_, rfl, k.start _ _ (k.pins s _ h)⟩
  | rstRise st =>
    refine k.finish ?_
    split
    · exact k.enter s st (by assumption) h
    · exact k.pins s _ h
  | linkFall p =>
    have h1 : L (setLink p false s) := k.pins s _ h
    refine k.finish ?_
    split
    · exact k.port _ p _ (.qual none (State.down (by assumption))) h1
    · rename_i hd
      exact k.tellLanes _ (k.note _ (k.fallen _ p (by simpa using hd) h1))
  | linkRise p =>
    have h1 : L (setLink p true s) := k.pins s _ h
    refine k.finish ?_
    split
    · exact k.port _ p _ (.qual _ (State.down (by assumption))) h1
    · exact h1
  | qualificationExpiry p =>
    refine k.finish ?_
    split
    · rename_i hc
      simp only [Bool.and_eq_true] at hc
      exact k.note _ (k.port s p _ (.up _ (State.down hc.1.1)) h)
    · exact h
  | scanWindowEnd p =>
    refine k.finish ?_
    split
    · rename_i hc
      simp only [Bool.and_eq_true, Bool.not_eq_true'] at hc
      exact k.noteIf _ _ (k.port s p _ (.window _ _ _ (State.not_down hc.1) (Clock.due_isSome hc.2)) h)
    · exact h
  | frameStart p =>
    refine k.finish ?_
    split
    · exact h
    · rename_i hc
      simp only [not_or, ne_eq, not_not, Bool.not_eq_true] at hc
      exact k.startReception p hc.2.1 hc.2.2 h
  | giant p => exact k.finish (k.giant s p h)
  | frameEnd p b n =>
    refine k.finish ?_
    split
    · exact h
    · exact k.endFrame p b n (by assumption) h
  | ringFilter p =>
    refine k.finish ?_
    split
    · exact h
    · split
      · exact k.filterFrame p _ (by assumption) (k.handed s _ h)
      · exact h
  | peerRoll p =>
    refine k.finish ?_
    split
    · exact h
    · dsimp only
      split
      · exact k.homewardRoll _ _ (k.rollIn s _ h)
      · exact k.outwardRoll _ _ (k.rollIn s _ h)
  | ownRoll p =>
    refine k.finish ?_
    split
    · exact h
    · dsimp only
      split
      · exact k.discardRoll _ _ (k.rollIn s _ h)
      · rename_i hl
        split
        · exact k.discardRoll _ _ (k.rollIn s _ h)
        · rename_i hf
          refine k.takeRoll _ _ _ _ ?_ (by simpa using hf) (k.rollIn s _ h)
          simp only [isLateRoll, Bool.or_eq_true, not_or] at hl
          simpa using hl.1.1
  | rollTimeoutExpiry =>
    refine k.finish ?_
    split
    · rename_i hc
      simp only [Bool.and_eq_true] at hc
      exact k.endRound (k.roll s _ (.lanes _ hc.1 (RollLane.timedOut_law _) (RollLane.timedOut_law _)) h)
    · exact h
  | transmitterFree p =>
    refine k.finish ?_
    split
    · obtain ⟨hd, ht, -⟩ := State.mayChoose_iff.mp (by assumption)
      refine k.choose p hd ?_ (k.markChosen p h)
      rw [markChosen_eq, eg_setEg, if_pos rfl]
      exact Transmitter.not_repeating ht
    · exact h
  | transmissionComplete p =>
    refine k.finish ?_
    split
    · rename_i heq
      split
      · exact k.completeTransmission _ _ _ _ ⟨_, _, _, _, heq⟩ h
      · exact h
    · exact h
  | repeaterTxComplete out =>
    refine k.finish ?_
    split
    · rename_i f b d heq
      split
      · exact k.repeated _ out.opposite _ (k.repeatDone s out f b d heq h)
      · exact h
    · exact h
  | clashHoldExpiry =>
    refine k.finish ?_
    split
    · exact k.noteIf _ _ (k.filter s _ h)
    · exact h
  | silenceExpiry n =>
    refine k.finish ?_
    dsimp only
    split
    · exact k.note _ (k.age s n h)
    · exact h
  | streamTimerExpiry n =>
    refine k.finish ?_
    split
    · rename_i hc; exact k.updateSlot n _ hc.1 (.stream _ hc.2) h
    · exact h
  | laneTimerExpiry n x =>
    refine k.finish ?_
    split
    · rename_i hc; exact k.updateSlot n _ hc.1 (.lane _ x hc.2) h
    · exact h
  | startDeadlineExpiry n =>
    refine k.finish ?_
    split
    · rename_i hc; exact k.updateSlot n _ hc.1 (.lose hc.2.1 (Clock.due_isSome hc.2.2)) h
    · exact h
  | checkPeriodExpiry =>
    refine k.finish ?_
    split
    · rename_i hc
      have hne : s.check ≠ {} := by intro he; rw [he] at hc; simp [Clock.due] at hc
      exact k.beginPeriod _ h (judgePeriod_loader s).symm (.inr hne) (k.judgePeriod (.inr hne) h)
    · exact h
  | timePeriodExpiry =>
    refine k.finish ?_
    split
    · exact k.sendTime (k.clock s _ _ h)
    · exact h
  | nodeCommand =>
    refine k.finish ?_
    split
    · exact h
    · have h1 := k.release ‹Nat› (k.commandIn s ‹List Nat› h)
      dsimp only
      unfold readCommand
      split
      · exact k.countReport _ h1
      · split
        · exact k.countReport _ h1
        · rename_i hq
          refine k.countReport _ (k.report _ _ ⟨.inl rfl, .inr ?_, .inl le_rfl⟩ h1)
          simp only [List.length_append, List.length_cons, List.length_nil]
          omega
  | report => show NextWith L (execReport s); unfold execReport; exact k.carryOut _ _ _ h h
  | roll =>
    show NextWith L (execRoll s)
    unfold execRoll
    refine k.carryOut _ _ _ ?_ h
    split
    · exact h
    · exact k.startRound _ h
  | haltRoll => show NextWith L (execHaltRoll s); unfold execHaltRoll; exact k.carryOut _ _ _ (k.haltRound h) h
  | zero => show NextWith L (execZero s); unfold execZero; exact k.carryOut _ _ _ (k.zero s h) h
  | restart => show NextWith L (execRestart s); unfold execRestart; exact k.carryOut _ _ _ h h
  | badCommand => show NextWith L (execBadCommand s); unfold execBadCommand; exact k.carryOut _ _ _ h h
  | reportHoldExpiry =>
    refine k.finish ?_
    split
    · have h1 := k.composeReply (k.report s { s.report with hold := none } (.of_eq rfl rfl rfl) h)
      dsimp only
      split
      · exact k.composeWaiting h1
      · exact h1
    · exact h
  | reportPeriodExpiry =>
    refine k.finish ?_
    split
    · exact k.report s _ (.of_eq rfl rfl rfl) h
    · exact h
  | imageReadAttempt r =>
    refine k.finish ?_
    split
    · exact k.endAttempt _ _ (by assumption) h
    · exact h
  | epochReadAttempt r =>
    refine k.finish ?_
    split
    · rename_i f hn _
      exact k.endEpochRead f _ hn h
    · exact h
  | epochWrite a =>
    refine k.finish ?_
    split
    · exact k.endEpochWrite _ (State.loadingIn_state (by assumption)).1 h
    · exact h
  | epochPoll a =>
    refine k.finish ?_
    split
    · rename_i hc
      have hn := (State.loadingIn_state hc).1
      dsimp only
      split
      · exact k.endLoading hn (k.endTransaction pollOps hn h)
      · exact k.begins _ _ hn (by simp) (by simp) (k.endTransaction pollOps hn h)
    · exact h
  | epochPollTimeout =>
    refine k.finish ?_
    split
    · rename_i hc
      simp only [Bool.and_eq_true] at hc
      have hn := (State.loadingIn_state hc.1).1
      exact k.epochWriteFailed hn (k.endTransaction [] hn h)
    · exact h
  | repeaterTransmitterFree out => exact k.finish (k.startRepeat s out h)

/-- Every step keeps a property that survives every update of a command, a change of the queue of commands and a REFCLK
cycle. -/
theorem Kept.step (k : Kept L) (pending : ∀ s q, L s → L { s with pending := q }) (tick : ∀ s, L s → L s.tick)
    {s : State} (h : L s) : NextWith L (step s) := by
  unfold Machine.step
  split
  · exact ⟨_, rfl, tick s h⟩
  · exact k.exec _ (pending s _ h)

end Sys2Proof.Machine
end

