-- ==== Sys2Proof/Laws/Loader.lean ====
section
/-! SUPPORT. What the loader decides lies within its ranges (R173 to R177). -/

namespace Sys2Proof.Machine

theorem clampTo_range {lo hi : Nat} (h : lo ≤ hi) (x : Nat) :
    lo ≤ (clampTo lo hi x).1 ∧ (clampTo lo hi x).1 ≤ hi := by
  unfold clampTo
  split
  · exact ⟨le_refl _, h⟩
  · split
    · exact ⟨h, le_refl _⟩
    · exact ⟨by omega, by omega⟩

theorem overridden_range {lo hi : Nat} (h : lo ≤ hi) (present : Bool) (value : Nat) {profile : Nat}
    (hp : lo ≤ profile ∧ profile ≤ hi) :
    lo ≤ (overridden present lo hi value profile).1 ∧ (overridden present lo hi value profile).1 ≤ hi := by
  unfold overridden
  split
  · exact clampTo_range h _
  · exact hp

theorem profileOf_law (n : BitVec 2) : (profileOf n).Law := by
  unfold profileOf
  split
  · simp [Profile.Law]
  · split
    · simp [Profile.Law]
    · split <;> simp [Profile.Law]

/-- An image's settings lie within their ranges over a profile that does (R173, R174). -/
theorem imageProfile_law (image : List Byte) (flags : BitVec 10) {p : Profile} (h : p.Law) :
    (imageProfile image flags p).1.Law := by
  obtain ⟨a1, a2, b1, b2, c1, c2, d1, d2, e1, e2, f1, f2, g1, g2, i, j, k⟩ := h
  unfold imageProfile
  refine ⟨?_, ?_, ?_, ?_, ?_, ?_, ?_, ?_, ?_, ?_, ?_, ?_, ?_, ?_, ?_, ?_, ?_⟩
  · exact (overridden_range (by omega) _ _ ⟨a1, a2⟩).1
  · exact (overridden_range (by omega) _ _ ⟨a1, a2⟩).2
  · exact (overridden_range (by omega) _ _ ⟨b1, b2⟩).1
  · exact (overridden_range (by omega) _ _ ⟨b1, b2⟩).2
  · exact (overridden_range (by omega) _ _ ⟨c1, c2⟩).1
  · exact (overridden_range (by omega) _ _ ⟨c1, c2⟩).2
  · exact (overridden_range (by omega) _ _ ⟨d1, d2⟩).1
  · exact (overridden_range (by omega) _ _ ⟨d1, d2⟩).2
  · exact (overridden_range (by omega) _ _ ⟨e1, e2⟩).1
  · exact (overridden_range (by omega) _ _ ⟨e1, e2⟩).2
  · exact (overridden_range (by omega) _ _ ⟨f1, f2⟩).1
  · exact (overridden_range (by omega) _ _ ⟨f1, f2⟩).2
  · exact (overridden_range (by omega) _ _ ⟨g1, g2⟩).1
  · exact (overridden_range (by omega) _ _ ⟨g1, g2⟩).2
  · exact (overridden_range (by omega) _ _ ⟨Nat.zero_le _, i⟩).2
  · exact (overridden_range (by omega) _ _ ⟨Nat.zero_le _, j⟩).2
  · exact (overridden_range (by omega) _ _ ⟨Nat.zero_le _, k⟩).2

theorem nodeAddress_single (n : BitVec 6) : isGroup (nodeAddress n) = false := by
  simp [isGroup, nodeAddress]

theorem ofNat6_ne {n : Nat} (h : n ≤ 62) : BitVec.ofNat 6 n ≠ 63 := by
  intro x
  have := congrArg BitVec.toNat x
  simp at this
  omega

theorem watchTableEntry_law (image : List Byte) (i : Nat) : (watchTableEntry image i).1.Law := by
  have a := clampTo_range (lo := 0) (hi := 62) (by omega) (byteAt image (i + 0)).toNat
  have b := clampTo_range (lo := 1) (hi := 65535) (by omega) (fieldAt image (i + 6) 2)
  have c := clampTo_range (lo := 1) (hi := 16) (by omega) (byteAt image (i + 8)).toNat
  have d := clampTo_range (lo := 1) (hi := 16) (by omega) (byteAt image (i + 9)).toNat
  refine ⟨ofNat6_ne a.2, ?_, c.1, c.2, d.1, d.2⟩
  show 1 ≤ (BitVec.ofNat 16 _).toNat
  rw [BitVec.toNat_ofNat, Nat.mod_eq_of_lt (by omega)]
  exact b.1

theorem placed_length {α : Type} (r : Nat → α × Nat) (a b c n : Nat) : (placed r a b c n).length ≤ n := by
  simp [placed]

theorem goodNode_law (n : Byte) (strap : BitVec 6) :
    (goodNode n strap).2.1 = .transit ∨
      ((goodNode n strap).2.1 = .running ∨ (goodNode n strap).2.1 = .fallback) ∧
        (goodNode n strap).1 ≠ 0 ∧ (goodNode n strap).1 ≠ 63 := by
  unfold goodNode
  split
  · rename_i h
    have key : (n.setWidth 6).toNat = n.toNat := by
      rw [BitVec.toNat_setWidth]
      omega
    refine .inr ⟨.inl rfl, ?_, ?_⟩ <;> intro x <;> dsimp only at x <;> rw [x] at key <;> simp at key <;> omega
  · split
    · exact .inl rfl
    · rename_i h
      rw [not_or] at h
      exact .inr ⟨.inl rfl, h⟩

theorem badNode_law (strap : BitVec 6) :
    badNode strap = .transit ∨
      (badNode strap = .running ∨ badNode strap = .fallback) ∧ strap ≠ 0 ∧ strap ≠ 63 := by
  unfold badNode
  split
  · exact .inl rfl
  · rename_i h
    rw [not_or] at h
    exact .inr ⟨.inr rfl, h⟩

theorem goodDraft_law {image : List Byte} {strap : BitVec 6} {l : Loader} {d : Draft}
    (h : (goodDraft image strap l).draft = some d) : d.Law := by
  simp only [goodDraft, Option.some.injEq] at h
  subst h
  have t := clampTo_range (lo := 1) (hi := 255) (by omega) (byteAt image 34).toNat
  refine ⟨⟨imageProfile_law _ _ (profileOf_law _), ?_, ?_, t.1, t.2, ?_, ?_⟩, ?_, ?_, goodNode_law _ _⟩
  · simpa using placed_length ..
  · simpa using placed_length ..
  · dsimp only
    split
    · exact ofNat6_ne ‹_›
    · decide
  · dsimp only
    split
    · exact nodeAddress_single _
    · exact Bool.not_eq_true _ ▸ ‹_›
  · simpa using placed_length ..
  · intro c hc
    simp only [placed, List.map_map, List.mem_map] at hc
    obtain ⟨i, -, rfl⟩ := hc
    exact watchTableEntry_law _ _

theorem badDraft_law {strap : BitVec 6} {l : Loader} {d : Draft} (h : (badDraft strap l).draft = some d) : d.Law := by
  simp only [badDraft, Option.some.injEq] at h
  subst h
  refine ⟨⟨by simp [Profile.Law], by simp, by simp, by simp, by simp, by simp, ?_⟩, by simp, by simp, badNode_law _⟩
  exact nodeAddress_single _

end Sys2Proof.Machine
end

