-- ==== Sys2Proof/Laws/Ops.lean ====
section
/-! SUPPORT. What each shared operation can do, said once: the end of an entry, notes, takes, entries that join a queue,
flushes, receptions dropped, and the end of a command. -/

namespace Sys2Proof.Machine

/-! ## Entries and the change list -/

/-- The end of an entry changes at most the flag that calls for the start of a RESTART reply. -/
theorem entryEnded_eq (m : Mark) (s : State) :
    entryEnded m s =
      { s with report := { s.report with restartDue := s.report.restartDue || m == .localFrame true } } := by
  unfold entryEnded
  by_cases h : m = .localFrame true
  · simp [h]
  · have hm : (m == .localFrame true) = false := by simp [h]
    simp [h, hm]

/-- What a note can do. -/
theorem note_cases (i : Item) (s : State) :
    note i s = s ∨
      (i ∉ s.report.changes ∧ s.report.changes.length < 16 ∧
        note i s = { s with report := { s.report with changes := s.report.changes ++ [i] } }) ∨
      (i ∉ s.report.changes ∧ 16 ≤ s.report.changes.length ∧
        note i s = { s with report := { s.report with more := true } }) := by
  unfold note
  split
  · exact .inl rfl
  · rename_i h
    rw [not_or] at h
    split
    · exact .inr (.inl ⟨h.2, ‹_›, rfl⟩)
    · exact .inr (.inr ⟨h.2, by omega, rfl⟩)

/-! ## Takes and entries -/

/-- What a generator's take can do (R91). -/
theorem generatorTake_cases (c : Class) (s : State) :
    (c.threshold + 1 ≤ s.free ∧ generatorTake c s = (some s.pool.take.1, { s with pool := s.pool.take.2 })) ∨
      (s.free < c.threshold + 1 ∧
        generatorTake c s = (none, { s with pool := { s.pool with refused := raise s.pool.refused } })) := by
  unfold generatorTake
  split
  · exact .inl ⟨‹_›, rfl⟩
  · exact .inr ⟨by omega, rfl⟩

/-- What a request to enqueue can do (R93): refused at a DOWN port, dropped at a full queue, or joined. -/
theorem enqueue_cases (p : Port) (c : Class) (buf : Nat) (m : Mark) (s : State) :
    (s.isDown p = true ∧ enqueue p c buf m s = entryEnded m (s.countEg p (EgressCounters.raiseFlushed 1))) ∨
      (s.isDown p = false ∧ c.depth ≤ ((s.eg p).queue c).length ∧
        enqueue p c buf m s = entryEnded m (s.countEg p (EgressCounters.drop c))) ∨
      (s.isDown p = false ∧ ((s.eg p).queue c).length < c.depth ∧
        enqueue p c buf m s =
          { s.setEg p ((s.eg p).setQueue c ((s.eg p).queue c ++ [⟨buf, m, s.clock.timerUnits⟩])) with
            pool := s.pool.addHold buf }) := by
  unfold enqueue
  split
  · exact .inl ⟨‹_›, rfl⟩
  · rename_i h
    rw [Bool.not_eq_true] at h
    split
    · exact .inr (.inl ⟨h, ‹_›, rfl⟩)
    · exact .inr (.inr ⟨h, by omega, rfl⟩)

/-! ## A port's fall -/

/-- A flush empties the scheduler of its port, ends every hold of it, and makes the end of its LOCAL entries known
(R102). -/
theorem flush_eq (p : Port) (s : State) :
    flush p s =
      { s with
        egress := s.egress.set p
          { urgent := [], stream := [], bulk := [], tx := .free, chosen := (s.eg p).chosen,
            counters := (s.eg p).counters.raiseFlushed (s.eg p).held.length }
        pool := (s.eg p).held.foldl (fun q e => q.release e.buf) s.pool
        report := { s.report with
          restartDue := s.report.restartDue || (s.eg p).held.any fun e => e.mark == .localFrame true } } := by
  have key : ∀ (es : List Entry) (u : State), es.foldl (fun t x => flushEntry x t) u =
      { u with
        pool := es.foldl (fun q e => q.release e.buf) u.pool
        report := { u.report with
          restartDue := u.report.restartDue || es.any fun e => e.mark == .localFrame true } } := by
    intro es
    induction es with
    | nil => intro u; simp
    | cons e es ih =>
      intro u
      rw [List.foldl_cons, ih]
      simp [flushEntry, entryEnded_eq, release, Bool.or_assoc]
  unfold flush
  dsimp only
  rw [key]
  rfl

/-- A reception's buffer or store is dropped: the pool and the repeater alone change. -/
theorem dropReception_eq (p : Port) (s : State) :
    dropReception p s =
      { s with
        pool := match (s.port p).rx with
          | .storing b => s.pool.release b
          | _ => s.pool
        repeater := match (s.port p).rx, p.ring? with
          | .repeating f, some r => s.repeater.set r ((s.repeater.get r).setStore f .free)
          | _, _ => s.repeater } := by
  unfold dropReception
  cases h : (s.port p).rx <;> cases h' : p.ring? <;> rfl

/-- All that a port's fall changes before it is noted (R3): the port and its egress scheduler, the pool and the repeater
by what they held, the lanes of the ring check unit on a ring port, and the flag of a RESTART reply. -/
theorem fallen_eq (p : Port) (s : State) :
    fallen p s =
      { s with
        ports := s.ports.set p (s.port p).enterDown
        egress := s.egress.set p
          { urgent := [], stream := [], bulk := [], tx := .free, chosen := (s.eg p).chosen,
            counters := (s.eg p).counters.raiseFlushed (s.eg p).held.length }
        pool := (s.eg p).held.foldl (fun q e => q.release e.buf) (dropReception p s).pool
        repeater := match p.ring? with
          | some r => (repeatDrop r (dropReception p s)).repeater
          | none => s.repeater
        check := match p.ring? with
          | some _ => (breakLanes s).check
          | none => s.check
        report := { s.report with
          restartDue := s.report.restartDue || (s.eg p).held.any fun e => e.mark == .localFrame true } } := by
  unfold fallen
  dsimp only
  rw [flush_eq, dropReception_eq]
  cases h : p.ring? with
  | none =>
    dsimp only
    cases hr : (s.port p).rx <;> rfl
  | some r =>
    have hm : ∀ t : State, t.loader = s.loader → t.check = s.check → breakLanes t =
        { t with check := (breakLanes s).check } := by
      intro t h1 h2
      have h3 : t.member = s.member := by simp [State.member, h1]
      have h4 : t.cfg = s.cfg := by simp [State.cfg, h1]
      unfold breakLanes
      rw [h3, h4, h2]
      split
      · simp only [State.withLanes, h2]
      · cases t; cases h2; rfl
    dsimp only
    refine (hm (repeatDrop r _) ?_ ?_).trans ?_
    · rfl
    · rfl
    · cases hr : (s.port p).rx <;> rfl

/-! ## The end of a command -/

/-- How every command ends: with the start of a RESTART reply that has ended (R167), or with the lines following a
report, if one is called for (R186, R188). -/
theorem settle_cases (s : State) :
    (s.report.restartDue = true ∧ settle s = takeStart .command s) ∨
      (s.report.restartDue = false ∧ s.member = true ∧ s.report.hold = none ∧
        settle s = followConditions (composeWaiting s)) ∨
      (s.report.restartDue = false ∧ (s.member = false ∨ s.report.hold ≠ none) ∧ settle s = followConditions s) := by
  unfold settle reportService
  cases s.report.restartDue <;> cases s.member <;> cases s.report.hold <;> simp

end Sys2Proof.Machine
end

