-- ==== Sys2Proof/Laws/Pool.lean ====
section
/-! SUPPORT. The frame pool: every operation keeps its canonical form (`Pool.wf`), and what a buffer reads as after
each operation. -/

namespace Sys2Proof.Machine

/-- The canonical form of a list of buffers, as a proposition. -/
def BufsOk (l : List (Nat × Buffer)) : Prop :=
  (∀ kb ∈ l, kb.1 < 256 ∧ 1 ≤ kb.2.refs) ∧ l.Pairwise fun a b => a.1 < b.1

theorem Pool.wf_iff {p : Pool} : p.wf = true ↔ BufsOk p.bufs := by
  simp [Pool.wf, BufsOk]

/-! ## Taking -/

/-- All keys of a list stand at or above a bound and rise strictly. -/
def RisingFrom (n : Nat) (l : List (Nat × Buffer)) : Prop :=
  (∀ kb ∈ l, n ≤ kb.1) ∧ l.Pairwise fun a b => a.1 < b.1

theorem RisingFrom.tail {n : Nat} {a : Nat × Buffer} {l : List (Nat × Buffer)} (h : RisingFrom n (a :: l)) :
    RisingFrom (n + 1) l := by
  obtain ⟨h1, h2⟩ := h
  rw [List.pairwise_cons] at h2
  exact ⟨fun kb hkb => by have := h2.1 kb hkb; have := h1 a (by simp); omega, h2.2⟩

/-- Inserting a buffer: the new number is the lowest free one, at most `n` plus the length. -/
theorem insertBuffer_spec (b : Buffer) (n : Nat) (l : List (Nat × Buffer)) (h : RisingFrom n l) :
    n ≤ (insertBuffer b n l).1 ∧ (insertBuffer b n l).1 ≤ n + l.length ∧
    (∀ kb ∈ l, kb.1 ≠ (insertBuffer b n l).1) ∧
    (insertBuffer b n l).2.length = l.length + 1 ∧
    RisingFrom n (insertBuffer b n l).2 ∧
    (∀ kb, kb ∈ (insertBuffer b n l).2 ↔ kb = ((insertBuffer b n l).1, b) ∨ kb ∈ l) := by
  induction l generalizing n with
  | nil => simp [insertBuffer, RisingFrom]
  | cons a l ih =>
    obtain ⟨k, c⟩ := a
    have ht := h.tail
    unfold insertBuffer
    split
    · rename_i hk
      obtain ⟨i1, i2, i3, i4, i5, i6⟩ := ih (n + 1) ht
      refine ⟨by dsimp only; omega, by dsimp only; simp; omega, ?_, by simp [i4], ?_, ?_⟩
      · intro kb hkb
        rcases List.mem_cons.mp hkb with rfl | hm
        · dsimp only; omega
        · exact i3 kb hm
      · refine ⟨?_, ?_⟩
        · intro kb hkb
          rcases List.mem_cons.mp hkb with rfl | hm
          · dsimp only; omega
          · have := i5.1 kb hm; omega
        · exact List.pairwise_cons.mpr ⟨fun kb hkb => by have := i5.1 kb hkb; dsimp only; omega, i5.2⟩
      · intro kb
        simp only [List.mem_cons, i6]
        tauto
    · rename_i hk
      have hn := h.1 (k, c) (by simp)
      refine ⟨by simp, by simp, ?_, by simp, ?_, ?_⟩
      · intro kb hkb
        rcases List.mem_cons.mp hkb with rfl | hm
        · dsimp only; omega
        · have := ht.1 kb hm; dsimp only; omega
      · refine ⟨?_, List.pairwise_cons.mpr ⟨?_, h.2⟩⟩
        · intro kb hkb
          rcases List.mem_cons.mp hkb with rfl | hm
          · simp
          · exact h.1 kb hm
        · intro kb hkb
          rcases List.mem_cons.mp hkb with rfl | hm
          · dsimp only at hn ⊢; omega
          · have := ht.1 kb hm; dsimp only; omega
      · intro kb
        simp

theorem Pool.wf_rising {p : Pool} (h : p.wf = true) : RisingFrom 0 p.bufs :=
  ⟨fun _ _ => Nat.zero_le _, (Pool.wf_iff.mp h).2⟩

/-- A take keeps the canonical form, lowers the free count by 1 and takes the low-water mark along (R88). -/
theorem Pool.take_wf {p : Pool} (h : p.wf = true) (hf : 0 < p.free) : p.take.2.wf = true := by
  obtain ⟨_, i2, _, _, i5, i6⟩ := insertBuffer_spec ⟨1, [], false⟩ 0 p.bufs (Pool.wf_rising h)
  rw [Pool.wf_iff] at h ⊢
  refine ⟨?_, i5.2⟩
  intro kb hkb
  rcases (i6 kb).mp hkb with rfl | hm
  · refine ⟨?_, le_rfl⟩
    unfold Pool.free at hf
    dsimp only
    omega
  · exact h.1 kb hm

theorem Pool.take_length {p : Pool} (h : p.wf = true) : p.take.2.bufs.length = p.bufs.length + 1 :=
  (insertBuffer_spec ⟨1, [], false⟩ 0 p.bufs (Pool.wf_rising h)).2.2.2.1

/-! ## Holds and contents -/

theorem Pool.modify_wf {p : Pool} {i : Nat} {f : Buffer → Buffer} (h : p.wf = true)
    (hf : ∀ b, 1 ≤ b.refs → 1 ≤ (f b).refs) : (p.modify i f).wf = true := by
  rw [Pool.wf_iff] at h ⊢
  have key : ∀ kb : Nat × Buffer, (if kb.1 = i then (kb.1, f kb.2) else kb).1 = kb.1 := by intro kb; split <;> rfl
  refine ⟨?_, ?_⟩
  · intro kb hkb
    obtain ⟨a, ha, rfl⟩ := List.mem_map.mp hkb
    have := h.1 a ha
    rw [key]
    refine ⟨this.1, ?_⟩
    split
    · exact hf _ this.2
    · exact this.2
  · refine List.pairwise_map.mpr (h.2.imp ?_)
    intro a b hab
    rw [key, key]; exact hab

theorem Pool.addHold_wf {p : Pool} {i : Nat} (h : p.wf = true) : (p.addHold i).wf = true :=
  Pool.modify_wf h fun b _ => by simp

theorem Pool.modify_length (p : Pool) (i : Nat) (f : Buffer → Buffer) :
    (p.modify i f).bufs.length = p.bufs.length := by simp [Pool.modify]

theorem Pool.release_wf {p : Pool} {i : Nat} (h : p.wf = true) : (p.release i).wf = true := by
  rw [Pool.wf_iff] at h ⊢
  refine ⟨?_, ?_⟩
  · intro kb hkb
    obtain ⟨a, ha, hs⟩ := List.mem_filterMap.mp hkb
    have := h.1 a ha
    split at hs
    · split at hs
      · simp at hs
      · simp only [Option.some.injEq] at hs
        subst hs
        exact ⟨this.1, by dsimp only; omega⟩
    · simp only [Option.some.injEq] at hs
      subst hs
      exact this
  · refine List.pairwise_filterMap.mpr (h.2.imp ?_)
    intro a b hab x hx y hy
    have key : ∀ (c z : Nat × Buffer), (if c.1 = i then
        if c.2.refs ≤ 1 then none else some (c.1, { c.2 with refs := c.2.refs - 1 }) else some c) = some z →
        z.1 = c.1 := by
      intro c z hz
      split at hz
      · split at hz
        · simp at hz
        · simp only [Option.some.injEq] at hz; rw [← hz]
      · simp only [Option.some.injEq] at hz; rw [← hz]
    rw [key a x hx, key b y hy]; exact hab

theorem Pool.release_length (p : Pool) (i : Nat) : (p.release i).bufs.length ≤ p.bufs.length :=
  List.length_filterMap_le _ _

/-! ## Lookups -/

/-- A lookup after a change of one buffer. -/
theorem Pool.get?_modify (p : Pool) (i : Nat) (f : Buffer → Buffer) (k : Nat) :
    (p.modify i f).get? k = if k = i then (p.get? k).map f else p.get? k := by
  unfold Pool.get? Pool.modify
  dsimp only
  induction p.bufs with
  | nil => simp
  | cons a l ih =>
    rw [List.map_cons, List.lookup_cons, List.lookup_cons, ih]
    by_cases ha : a.1 = i
    · by_cases hk : k = i
      · subst hk; simp [ha]
      · have hb : (k == i) = false := beq_false_of_ne hk
        simp [ha, hk, hb]
    · by_cases hk : k = i
      · subst hk
        have hb : (k == a.1) = false := beq_false_of_ne (Ne.symm ha)
        simp [ha, hb]
      · simp [ha, hk]

/-- A lookup in a list of rising keys, by membership. -/
theorem lookup_rising {l : List (Nat × Buffer)} (h : l.Pairwise fun a b => a.1 < b.1) (k : Nat) (b : Buffer) :
    l.lookup k = some b ↔ (k, b) ∈ l := by
  induction l with
  | nil => simp
  | cons a l ih =>
    rw [List.pairwise_cons] at h
    rw [List.lookup_cons]
    by_cases hk : k = a.1
    · subst hk
      simp only [beq_self_eq_true, Option.some.injEq, List.mem_cons]
      constructor
      · rintro rfl; exact .inl rfl
      · rintro (hc | hc)
        · exact congrArg Prod.snd hc.symm
        · exact absurd (h.1 _ hc) (by simp)
    · rw [show (k == a.1) = false from beq_false_of_ne hk]
      dsimp only
      rw [ih h.2]
      simp only [List.mem_cons]
      constructor
      · exact .inr
      · rintro (hc | hc)
        · exact absurd (congrArg Prod.fst hc) hk
        · exact hc

/-- A lookup after a take (R88): the taken buffer was free and has count 1, and every other is as it was. -/
theorem Pool.get?_take {p : Pool} (h : p.wf = true) (k : Nat) :
    p.get? p.take.1 = none ∧
    p.take.2.get? k = if k = p.take.1 then some ⟨1, [], false⟩ else p.get? k := by
  obtain ⟨_, _, i3, _, i5, i6⟩ := insertBuffer_spec ⟨1, [], false⟩ 0 p.bufs (Pool.wf_rising h)
  have hr := (Pool.wf_rising h).2
  have hn : p.get? p.take.1 = none := by
    rw [Option.eq_none_iff_forall_ne_some]
    intro b hb
    exact i3 _ ((lookup_rising hr _ _).mp hb) rfl
  refine ⟨hn, ?_⟩
  rw [Option.ext_iff]
  intro b
  show List.lookup k _ = _ ↔ _
  rw [show p.take.2.bufs = (insertBuffer ⟨1, [], false⟩ 0 p.bufs).2 from rfl, lookup_rising i5.2, i6]
  have hm : ∀ b, p.get? k = some b ↔ (k, b) ∈ p.bufs := fun b => lookup_rising hr k b
  by_cases hk : k = p.take.1
  · subst hk
    rw [if_pos rfl, ← hm, hn]
    simp [Pool.take, eq_comm]
  · rw [if_neg hk, hm]
    constructor
    · rintro (hc | hc)
      · exact absurd (congrArg Prod.fst hc) hk
      · exact hc
    · exact .inr

/-- A lookup after a hold has ended (R87). -/
theorem Pool.get?_release {p : Pool} (h : p.wf = true) (i k : Nat) :
    (p.release i).get? k =
      if k = i then (p.get? k).bind fun b => if b.refs ≤ 1 then none else some { b with refs := b.refs - 1 }
      else p.get? k := by
  have hr := (Pool.wf_rising h).2
  have hr' := (Pool.wf_rising (Pool.release_wf (i := i) h)).2
  rw [Option.ext_iff]
  intro b
  rw [show (p.release i).get? k = (p.release i).bufs.lookup k from rfl, lookup_rising hr']
  have hm : ∀ b, p.get? k = some b ↔ (k, b) ∈ p.bufs := fun b => lookup_rising hr k b
  unfold Pool.release
  simp only [List.mem_filterMap]
  by_cases hk : k = i
  · subst hk
    rw [if_pos rfl, Option.bind_eq_some_iff]
    constructor
    · rintro ⟨a, ha, hs⟩
      by_cases hak : a.1 = k
      · rw [if_pos hak] at hs
        refine ⟨a.2, (hm _).mpr (by rw [← hak]; exact ha), ?_⟩
        split at hs
        · cases hs
        · rw [Option.some.injEq] at hs
          rename_i hc
          rw [if_neg hc]; exact congrArg (fun x => some x.2) hs
      · rw [if_neg hak, Option.some.injEq] at hs
        exact absurd (congrArg Prod.fst hs) hak
    · rintro ⟨c, hc, hs⟩
      refine ⟨(k, c), (hm _).mp hc, ?_⟩
      rw [if_pos rfl]
      split at hs
      · cases hs
      · rename_i hx
        rw [if_neg hx]
        rw [Option.some.injEq] at hs ⊢
        rw [← hs]
  · rw [if_neg hk, hm]
    constructor
    · rintro ⟨a, ha, hs⟩
      split at hs
      · rename_i hai
        split at hs
        · cases hs
        · rw [Option.some.injEq] at hs
          exact absurd (congrArg Prod.fst hs).symm (by rw [hai]; exact hk)
      · rw [Option.some.injEq] at hs; rw [← hs]; exact ha
    · intro hb
      exact ⟨(k, b), hb, by rw [if_neg hk]⟩

/-- The last hold on a buffer gives it back when it ends, and any other leaves as many buffers in use (R87). -/
theorem Pool.release_length_eq {p : Pool} (h : p.wf = true) {i : Nat} {b : Buffer} (hb : p.get? i = some b) :
    (p.release i).bufs.length + (if b.refs ≤ 1 then 1 else 0) = p.bufs.length := by
  have hr := (Pool.wf_rising h).2
  unfold Pool.get? at hb
  unfold Pool.release
  dsimp only
  generalize p.bufs = bufs at hb hr ⊢
  induction bufs with
  | nil => simp at hb
  | cons a l ih =>
    rw [List.pairwise_cons] at hr
    by_cases ha : a.1 = i
    · have hab : a.2 = b := by
        obtain ⟨k, c⟩ := a
        simpa [List.lookup, show (i == k) = true by simpa using ha.symm] using hb
      have rest : l.filterMap (fun kb : Nat × Buffer => if kb.1 = i then
          (if kb.2.refs ≤ 1 then none else some (kb.1, { kb.2 with refs := kb.2.refs - 1 })) else some kb) = l := by
        conv_rhs => rw [← List.filterMap_some (l := l)]
        refine List.filterMap_congr fun kb hkb => ?_
        have := hr.1 kb hkb
        rw [if_neg (by omega)]
      rw [List.filterMap_cons, rest, if_pos ha, hab]
      by_cases h1 : b.refs ≤ 1 <;> simp [h1]
    · have hl : l.lookup i = some b := by
        obtain ⟨k, c⟩ := a
        simpa [List.lookup, show (i == k) = false by simpa using fun e => ha e.symm] using hb
      rw [List.filterMap_cons, if_neg ha]
      have := ih hl hr.2
      simp only [List.length_cons]
      omega

end Sys2Proof.Machine
end

