-- ==== Sys2Proof/Laws/SourceTable.lean ====
section
/-! SUPPORT. The source table: what a verdict can do to a record, and that it keeps the record's law (R57). -/

namespace Sys2Proof.Machine

/-! ## Bits -/

@[simp] theorem getLsbD_oneBit (k j : Nat) : (oneBit k).getLsbD j = (decide (j < 64) && decide (j = k)) := by
  unfold oneBit
  rw [BitVec.getLsbD_shiftLeft]
  by_cases h : j < 64
  · by_cases hk : j < k
    · simp [hk, Nat.ne_of_lt hk]
    · by_cases hj : j = k
      · subst hj; simp [h]
      · have : j - k ≠ 0 := by omega
        simp [hk, hj, this]
  · simp [h]

theorem SourceRecord.bit_setBit (r : SourceRecord) (x y : Lane) (k j : Nat) :
    (r.setBit x k).bit y j = (r.bit y j || (decide (x = y) && decide (j < 64) && decide (j = k))) := by
  cases x <;> cases y <;> simp [SourceRecord.setBit, SourceRecord.bit, SourceRecord.map]

theorem SourceRecord.bit_lt {r : SourceRecord} {x : Lane} {k : Nat} (h : r.bit x k = true) : k < 64 := by
  by_contra hk
  simp [SourceRecord.bit, BitVec.getLsbD_of_ge _ _ (by omega : 64 ≤ k)] at h

/-! ## Departures leave the window -/

/-- What departure accounting leaves of a record (R70 to R73). -/
structure SameWindow (a b : SourceRecord) : Prop where
  live : b.live = a.live
  top : b.top = a.top
  span : b.span = a.span
  mapE : b.mapE = a.mapE
  mapW : b.mapW = a.mapW
  epoch : b.epoch = a.epoch
  staleRun : b.staleRun = a.staleRun
  silence : b.silence = a.silence
  restarts : b.counters.restarts = a.counters.restarts
  resyncs : b.counters.resyncs = a.counters.resyncs

theorem SameWindow.refl (a : SourceRecord) : SameWindow a a := ⟨rfl, rfl, rfl, rfl, rfl, rfl, rfl, rfl, rfl, rfl⟩

theorem SameWindow.trans {a b c : SourceRecord} (h : SameWindow a b) (g : SameWindow b c) : SameWindow a c :=
  ⟨g.live.trans h.live, g.top.trans h.top, g.span.trans h.span, g.mapE.trans h.mapE, g.mapW.trans h.mapW,
    g.epoch.trans h.epoch, g.staleRun.trans h.staleRun, g.silence.trans h.silence, g.restarts.trans h.restarts,
    g.resyncs.trans h.resyncs⟩

/-- The streaks are at most 255. -/
def SourceRecord.StreaksOk (r : SourceRecord) : Prop := r.westMiss ≤ 255 ∧ r.eastMiss ≤ 255

theorem Accounted.leave_spec (lim k : Nat) (a : Accounted) :
    SameWindow a.src (a.leave lim k).src ∧ (a.src.StreaksOk → (a.leave lim k).src.StreaksOk) := by
  unfold Accounted.leave
  split
  · unfold Accounted.paired Accounted.toPath
    split <;> exact ⟨⟨rfl, rfl, rfl, rfl, rfl, rfl, rfl, rfl, rfl, rfl⟩, fun _ => ⟨by simp, by simp⟩⟩
  · unfold Accounted.eastSingle Accounted.toPath
    dsimp only
    split
    · split <;> exact ⟨⟨rfl, rfl, rfl, rfl, rfl, rfl, rfl, rfl, rfl, rfl⟩, fun _ => ⟨by simp, by simp⟩⟩
    · exact ⟨⟨rfl, rfl, rfl, rfl, rfl, rfl, rfl, rfl, rfl, rfl⟩, fun _ => ⟨by simp, by simp⟩⟩
  · unfold Accounted.westSingle Accounted.toPath
    dsimp only
    split
    · split <;> exact ⟨⟨rfl, rfl, rfl, rfl, rfl, rfl, rfl, rfl, rfl, rfl⟩, fun _ => ⟨by simp, by simp⟩⟩
    · exact ⟨⟨rfl, rfl, rfl, rfl, rfl, rfl, rfl, rfl, rfl, rfl⟩, fun _ => ⟨by simp, by simp⟩⟩
  · exact ⟨⟨rfl, rfl, rfl, rfl, rfl, rfl, rfl, rfl, rfl, rfl⟩, fun h => h⟩

/-- Departure accounting changes streaks, path and counts alone (R70 to R73). -/
theorem accountDepartures_spec (lim d : Nat) (r : SourceRecord) :
    SameWindow r (accountDepartures lim d r).src ∧ (r.StreaksOk → (accountDepartures lim d r).src.StreaksOk) := by
  suffices h : ∀ (ks : List Nat) (a : Accounted),
      SameWindow a.src (ks.foldl (fun a k => Accounted.leave lim k a) a).src ∧
      (a.src.StreaksOk → (ks.foldl (fun a k => Accounted.leave lim k a) a).src.StreaksOk) by
    have := h (leavingPositions r.span d) ⟨r, false⟩
    exact ⟨this.1.trans ⟨rfl, rfl, rfl, rfl, rfl, rfl, rfl, rfl, rfl, rfl⟩, this.2⟩
  intro ks
  induction ks with
  | nil => intro a; exact ⟨.refl _, id⟩
  | cons k ks ih =>
    intro a
    have h1 := Accounted.leave_spec lim k a
    have h2 := ih (Accounted.leave lim k a)
    exact ⟨h1.1.trans h2.1, fun h => h2.2 (h1.2 h)⟩

/-! ## The advance -/

/-- The window after an advance by `d` (R64): every mark moves up by `d`, and the new copy's mark stands at 0. -/
theorem SourceRecord.advance_spec (lim d : Nat) (s : Seq) (x : Lane) (r : SourceRecord) :
    (r.advance lim d s x).src.live = r.live ∧ (r.advance lim d s x).src.top = s ∧
    (r.advance lim d s x).src.span = min 64 (r.span + d) ∧
    (r.advance lim d s x).src.epoch = r.epoch ∧ (r.advance lim d s x).src.silence = r.silence ∧
    (r.advance lim d s x).src.counters.restarts = r.counters.restarts ∧
    (r.advance lim d s x).src.counters.resyncs = r.counters.resyncs ∧
    (r.StreaksOk → (r.advance lim d s x).src.StreaksOk) ∧
    ∀ y k, (r.advance lim d s x).src.bit y k =
      ((decide (d ≤ k) && decide (k < 64) && r.bit y (k - d)) || (decide (x = y) && decide (k = 0))) := by
  obtain ⟨w, st⟩ := accountDepartures_spec lim d r
  unfold SourceRecord.advance
  dsimp only
  refine ⟨?_, ?_, ?_, ?_, ?_, ?_, ?_, ?_, ?_⟩
  · cases x <;> exact w.live
  · cases x <;> rfl
  · cases x <;> (simp only [SourceRecord.setBit]; rw [w.span])
  · cases x <;> exact w.epoch
  · cases x <;> exact w.silence
  · cases x <;> exact w.restarts
  · cases x <;> exact w.resyncs
  · intro h; cases x <;> exact st h
  · intro y k
    rw [SourceRecord.bit_setBit]
    have hb : ∀ y, SourceRecord.bit { (accountDepartures lim d r).src with
        mapE := (accountDepartures lim d r).src.mapE <<< d
        mapW := (accountDepartures lim d r).src.mapW <<< d
        top := s
        span := min 64 ((accountDepartures lim d r).src.span + d) } y k =
        (decide (d ≤ k) && decide (k < 64) && r.bit y (k - d)) := by
      intro y
      cases y <;>
        simp only [SourceRecord.bit, SourceRecord.map, BitVec.getLsbD_shiftLeft, w.mapE, w.mapW] <;>
        by_cases h1 : d ≤ k <;> by_cases h2 : k < 64 <;> simp [h1, h2, Nat.not_lt.mpr, Nat.lt_of_not_le]
    rw [hb]
    congr 1
    by_cases h0 : k = 0 <;> simp [h0]

/-! ## The law -/

theorem SourceRecord.around_law (r : SourceRecord) (s : Seq) (e : BitVec 4) (x : Lane) (k : SourceCounters) (a : Stamp)
    (t : Timer) : SourceRecord.Law { r.around s e x with counters := k, lastHeard := a, silence := some t } := by
  refine ⟨by simp [SourceRecord.around], fun _ => ?_⟩
  refine ⟨le_rfl, by simp [SourceRecord.around], ?_, ?_, by simp [SourceRecord.around], by simp [SourceRecord.around],
    by simp [SourceRecord.around], rfl⟩
  · cases x <;> simp [SourceRecord.around, SourceRecord.bit, SourceRecord.map]
  · intro y k hk
    simp only [SourceRecord.around] at hk
    have : k ≠ 0 := by omega
    cases x <;> cases y <;> simp [SourceRecord.around, SourceRecord.bit, SourceRecord.map, this]

/-- The part of a record's law that the counters and stamps do not enter, for a LIVE record. -/
structure LiveOk (r : SourceRecord) : Prop where
  live : r.live = true
  lo : 1 ≤ r.span
  hi : r.span ≤ 64
  zero : r.bit .e 0 = true ∨ r.bit .w 0 = true
  beyond : ∀ x k, r.span ≤ k → r.bit x k = false
  stale : r.staleRun ≤ 7
  streaks : r.StreaksOk

theorem LiveOk.of_law {r : SourceRecord} (h : r.Law) (hl : r.live = true) : LiveOk r := by
  obtain ⟨a, b, c, d, e, f, g, _⟩ := h.2 hl
  exact ⟨hl, a, b, c, d, e, f, g⟩

theorem LiveOk.law {r : SourceRecord} (h : LiveOk r) (k : SourceCounters) (a : Stamp) (t : Timer) :
    SourceRecord.Law { r with counters := k, lastHeard := a, silence := some t } :=
  ⟨fun hl => absurd h.live (by simp only at hl; simp [hl]),
    fun _ => ⟨h.lo, h.hi, h.zero, h.beyond, h.stale, h.streaks.1, h.streaks.2, rfl⟩⟩

theorem LiveOk.around (r : SourceRecord) (s : Seq) (e : BitVec 4) (x : Lane) (k : SourceCounters) :
    LiveOk { r.around s e x with counters := k } := by
  have h := SourceRecord.around_law r s e x k 0 ⟨0, 0⟩
  obtain ⟨a, b, c, d, e', f, g, _⟩ := h.2 rfl
  exact ⟨rfl, a, b, c, d, e', f, g⟩

theorem LiveOk.atPosition {r : SourceRecord} (h : LiveOk r) (x : Lane) (k : Nat) (hk : k < 64) :
    LiveOk (r.atPosition x k).src := by
  have hz : ∀ x k, (r.setBit x k).bit .e 0 = true ∨ (r.setBit x k).bit .w 0 = true := by
    intro x k
    rw [SourceRecord.bit_setBit, SourceRecord.bit_setBit]
    rcases h.zero with h0 | h0 <;> simp [h0]
  unfold SourceRecord.atPosition
  split
  · exact h
  · split
    · rename_i hb
      have hsp : k < r.span := by
        by_contra hc
        rw [h.beyond x.other k (by omega)] at hb; simp at hb
      refine ⟨?_, ?_, ?_, hz x k, ?_, ?_, ?_⟩
      · cases x <;> exact h.live
      · cases x <;> exact h.lo
      · cases x <;> exact h.hi
      · intro y j hj
        have hj' : r.span ≤ j := by cases x <;> exact hj
        rw [SourceRecord.bit_setBit, h.beyond y j hj']
        simp; omega
      · cases x <;> exact h.stale
      · cases x <;> exact h.streaks
    · refine ⟨?_, ?_, ?_, ?_, ?_, ?_, ?_⟩
      · cases x <;> exact h.live
      · have := h.lo; dsimp only; omega
      · have := h.hi; dsimp only; omega
      · cases x <;> exact hz _ k
      · intro y j hj
        have hj' : r.span ≤ j ∧ k < j := by dsimp only at hj; omega
        have e1 : (r.setBit x k).bit y j = false := by
          rw [SourceRecord.bit_setBit, h.beyond y j hj'.1]; simp; omega
        cases x <;> cases y <;> exact e1
      · cases x <;> exact h.stale
      · cases x <;> exact h.streaks

theorem LiveOk.clear {r : SourceRecord} (h : LiveOk r) : LiveOk { r with staleRun := 0 } :=
  ⟨h.live, h.lo, h.hi, h.zero, h.beyond, by simp, h.streaks⟩

theorem LiveOk.staleCopy {r : SourceRecord} (h : LiveOk r) (s : Seq) (e : BitVec 4) (x : Lane) :
    LiveOk (r.staleCopy s e x).src := by
  unfold SourceRecord.staleCopy
  split
  · rename_i hs
    exact ⟨h.live, h.lo, h.hi, h.zero, h.beyond, by dsimp only; omega, h.streaks⟩
  · exact LiveOk.around _ _ _ _ _

theorem LiveOk.advance {r : SourceRecord} (h : LiveOk r) (lim d : Nat) (s : Seq) (x : Lane) :
    LiveOk { (r.advance lim d s x).src with staleRun := 0 } := by
  obtain ⟨a1, _, a3, _, _, _, _, a8, a9⟩ := SourceRecord.advance_spec lim d s x r
  refine ⟨a1.trans h.live, ?_, ?_, ?_, ?_, by simp, a8 h.streaks⟩
  · have := h.lo; dsimp only; omega
  · dsimp only; omega
  · have h1 := a9 .e 0
    have h2 := a9 .w 0
    cases x
    · exact .inl (h1.trans (by simp))
    · exact .inr (h2.trans (by simp))
  · intro y k hk
    have h1 := a9 y k
    have hk' : (r.advance lim d s x).src.span ≤ k := hk
    refine Eq.trans h1 ?_
    have hlo := h.lo
    have hk0 : k ≠ 0 := by omega
    simp only [hk0, decide_false, Bool.and_false, Bool.or_false]
    by_cases h2 : k < 64
    · by_cases h3 : d ≤ k
      · rw [h.beyond y (k - d) (by omega)]; simp
      · simp [h3]
    · simp [h2]

theorem LiveOk.weigh {r : SourceRecord} (h : r.Law) (lim : Nat) (s : Seq) (e : BitVec 4) (x : Lane) :
    LiveOk (r.weigh lim s e x).src := by
  unfold SourceRecord.weigh
  dsimp only
  split
  · exact LiveOk.around _ _ _ _ _
  · rename_i hl
    have hok := LiveOk.of_law h (by simpa using hl)
    split
    · unfold SourceRecord.place
      dsimp only
      split
      · exact (hok.atPosition x 0 (by omega)).clear
      · split
        · exact hok.advance _ _ _ _
        · split
          · exact (hok.atPosition x _ (by omega)).clear
          · exact hok.staleCopy _ _ _
    · split
      · exact LiveOk.around _ _ _ _ _
      · exact hok.staleCopy _ _ _

/-- A verdict keeps the record's law (R57): after it the record is LIVE and lawful. -/
theorem SourceRecord.judge_law {r : SourceRecord} (h : r.Law) (lim : Nat) (s : Seq) (e : BitVec 4) (x : Lane)
    (a : Stamp) (t : Timer) : (r.judge lim s e x a t).src.Law := (LiveOk.weigh h lim s e x).law _ _ _

theorem SourceRecord.empty_law : SourceRecord.Law {} := ⟨fun _ => rfl, by simp⟩

end Sys2Proof.Machine
end

