-- ==== Sys2Proof/Laws/StreamWatch.lean ====
section
/-! SUPPORT. The watch slot's law survives every operation on a slot (R109, R116 to R119, R121). -/

namespace Sys2Proof.Machine

theorem rearmed_isSome (t : Option Timer) (n : Nat) : (rearmed t n).isSome = t.isSome := by
  cases t <;> rfl

theorem SlotLane.lose_law {m : Nat} {l : SlotLane} (h : l.Law m) : (l.lose m).Law m := by
  unfold SlotLane.lose
  split
  · exact h
  · exact ⟨fun _ => ⟨rfl, rfl⟩, fun h => absurd rfl h⟩

theorem SlotLane.lose_down (m : Nat) (l : SlotLane) : (l.lose m).status = .down := by
  unfold SlotLane.lose
  split
  · assumption
  · rfl

/-- A slot becomes LOST lawfully from any state (R116, R118, R119). -/
theorem Slot.lose_law {w : Slot} (h : w.Law) (hu : w.inUse = true) : w.lose.Law := by
  obtain ⟨_, h⟩ := h
  obtain ⟨hn, hm, -, -, -, -, -, he, hw⟩ := h hu
  refine ⟨fun x => absurd (show w.lose.inUse = true from hu) (by simp [x]), fun _ => ⟨hn, hm, ?_, ?_, ?_, ?_, ?_, ?_, ?_⟩⟩
  · intro x; cases x
  · intro x; cases x
  · intro x; cases x
  · exact fun _ => ⟨rfl, rfl, SlotLane.lose_down .., SlotLane.lose_down ..⟩
  · intro x; cases x
  · exact SlotLane.lose_law he
  · exact SlotLane.lose_law hw

/-- An expiry of the stream timer keeps the law (R116). -/
theorem Slot.streamExpires_law {w : Slot} (h : w.Law) (hu : w.inUse = true)
    (hs : w.status = .live ∨ w.status = .late) : w.streamExpires.Law := by
  unfold Slot.streamExpires
  split
  · rename_i hlt
    obtain ⟨_, h⟩ := h
    obtain ⟨hn, hm, ha, hl, ht, -, hd, he, hw⟩ := h hu
    refine ⟨fun x => absurd hu (by simp [show w.inUse = false from x]), fun _ => ⟨hn, hm, ?_, ?_, ?_, ?_, ?_, he, hw⟩⟩
    · intro x; cases x
    · intro x; cases x
    · intro _
      refine ⟨Nat.le_add_left .., hlt, ?_⟩
      simp only [rearmed_isSome]
      rcases hs with hs | hs
      · exact (hl hs).2
      · exact (ht hs).2.2
    · intro x; cases x
    · intro x
      have := hd x
      rcases hs with hs | hs <;> simp [hs] at this
  · exact Slot.lose_law h hu

/-- An expiry of a lane timer on a lane that is not DOWN keeps the law (R117). -/
theorem Slot.laneExpires_law {w : Slot} (x : Lane) (h : w.Law) (hu : w.inUse = true)
    (hs : (w.lanes.get x).status ≠ .down) : (w.laneExpires x).Law := by
  obtain ⟨_, h⟩ := h
  obtain ⟨hn, hm, ha, hl, ht, ho, hd, he, hw⟩ := h hu
  have hlost : w.status ≠ .lost := by
    intro y
    obtain ⟨-, -, ye, yw⟩ := ho y
    cases x
    · exact hs ye
    · exact hs yw
  unfold Slot.laneExpires
  dsimp only
  split
  · rename_i hlt
    refine ⟨fun y => absurd hu (by simp [show w.inUse = false from y]),
      fun _ => ⟨hn, hm, ha, hl, ht, fun y => absurd y hlost, hd, ?_, ?_⟩⟩
    · cases x
      · exact ⟨fun y => absurd y hs, fun _ => hlt⟩
      · exact he
    · cases x
      · exact hw
      · exact ⟨fun y => absurd y hs, fun _ => hlt⟩
  · refine ⟨fun y => absurd hu (by simp [show w.inUse = false from y]),
      fun _ => ⟨hn, hm, ha, hl, ht, fun y => absurd y hlost, hd, ?_, ?_⟩⟩
    · cases x
      · exact ⟨fun _ => ⟨rfl, rfl⟩, fun y => absurd rfl y⟩
      · exact he
    · cases x
      · exact hw
      · exact ⟨fun _ => ⟨rfl, rfl⟩, fun y => absurd rfl y⟩

/-! ## Taking a copy, part by part -/

theorem Slot.streamFirst_law {w : Slot} (c : Clock) (h : w.Law) (hu : w.inUse = true) : (w.streamFirst c).Law := by
  obtain ⟨_, h⟩ := h
  obtain ⟨hn, hm, -, -, -, -, hd, he, hw⟩ := h hu
  refine ⟨fun x => absurd hu (by simp [show w.inUse = false from x]), fun _ => ⟨hn, hm, ?_, ?_, ?_, ?_, ?_, he, hw⟩⟩
  · intro x; cases x
  · exact fun _ => ⟨rfl, rfl⟩
  · intro x; cases x
  · intro x; cases x
  · intro x
    change (if w.status = .await then none else w.deadline).isSome = true at x
    by_cases hs : w.status = .await
    · simp [hs] at x
    · rw [if_neg hs] at x
      exact absurd (hd x) hs

theorem Slot.laneArrives_law {w : Slot} (c : Clock) (x : Lane) (h : w.Law) (hu : w.inUse = true)
    (hs : w.status ≠ .lost) : (w.laneArrives c x).Law := by
  obtain ⟨_, h⟩ := h
  obtain ⟨hn, hm, ha, hl, ht, -, hd, he, hw⟩ := h hu
  have key : ∀ l : SlotLane, SlotLane.Law w.config.allowM { l with status := .up, miss := 0, timer := some (w.timerFrom c) } :=
    fun l => ⟨fun y => (by cases y), fun _ => by simpa using hm⟩
  refine ⟨fun y => absurd hu (by simp [show w.inUse = false from y]),
    fun _ => ⟨hn, hm, ha, hl, ht, fun y => absurd y hs, hd, ?_, ?_⟩⟩
  · cases x
    · exact key _
    · exact he
  · cases x
    · exact hw
    · exact key _

theorem Slot.superviseLane_law {w : Slot} (c : Clock) (x : Lane) (h : w.Law) (hu : w.inUse = true)
    (hs : w.status ≠ .lost) : (w.superviseLane c x).Law := by
  unfold Slot.superviseLane
  split
  · rename_i hx
    obtain ⟨_, h⟩ := h
    obtain ⟨hn, hm, ha, hl, ht, -, hd, he, hw⟩ := h hu
    have key : ∀ l : SlotLane, l.status = .await →
        SlotLane.Law w.config.allowM { l with miss := 0, timer := some (w.timerFrom c) } :=
      fun l hl => ⟨fun y => by simp [hl] at y, fun _ => by simpa using hm⟩
    refine ⟨fun y => absurd hu (by simp [show w.inUse = false from y]),
      fun _ => ⟨hn, hm, ha, hl, ht, fun y => absurd y hs, hd, ?_, ?_⟩⟩
    · cases x
      · exact key _ hx
      · exact he
    · cases x
      · exact hw
      · exact key _ hx
  · exact h

theorem Slot.recordCopy_law {w : Slot} (n : CopyNotice) (h : w.Law) (hu : w.inUse = true) : (w.recordCopy n).Law := by
  obtain ⟨_, h⟩ := h
  obtain ⟨hn, hm, ha, hl, ht, ho, hd, he, hw⟩ := h hu
  refine ⟨fun y => absurd hu (by simp [show w.inUse = false from y]), fun _ => ?_⟩
  cases hx : n.lane <;> simp only [Slot.recordCopy, hx, PerLane.set, PerLane.get] <;>
    exact ⟨hn, hm, ha, hl, ht, ho, hd, he, hw⟩

/-- Taking a copy keeps the law (R112 to R115). -/
theorem Slot.take_law {w : Slot} (c : Clock) (n : CopyNotice) (h : w.Law) (hu : w.inUse = true) : (w.take c n).Law := by
  unfold Slot.take
  dsimp only
  obtain ⟨v, hv⟩ : ∃ v, v = if n.first then w.streamFirst c else w := ⟨_, rfl⟩
  rw [← hv]
  have hvl : v.Law ∧ v.inUse = true := by
    rw [hv]
    split
    · exact ⟨Slot.streamFirst_law c h hu, hu⟩
    · exact ⟨h, hu⟩
  have happ : n.first = true → v.status ≠ .lost := by
    intro hf
    rw [hv, if_pos hf]
    intro x; cases x
  obtain ⟨u, hdef⟩ : ∃ u, u = if v.status = .lost then v else v.laneArrives c n.lane := ⟨_, rfl⟩
  rw [← hdef]
  have hul : u.Law ∧ u.inUse = true ∧ u.status = v.status := by
    rw [hdef]
    split
    · exact ⟨hvl.1, hvl.2, rfl⟩
    · exact ⟨Slot.laneArrives_law c _ hvl.1 hvl.2 ‹_›, hvl.2, rfl⟩
  split
  · rename_i hc
    rw [Bool.and_eq_true] at hc
    have hs : u.status ≠ .lost := hul.2.2 ▸ happ hc.1
    refine Slot.recordCopy_law n (Slot.superviseLane_law c _ hul.1 hul.2.1 hs) ?_
    unfold Slot.superviseLane
    split
    · exact hul.2.1
    · exact hul.2.1
  · exact Slot.recordCopy_law n hul.1 hul.2.1

end Sys2Proof.Machine
end

