-- ==== Sys2Proof/WellFormed.lean ====
section
/-! DEFINITION. Which commands name something the block has. A command that is not well formed names no event of
the hardware; its meaning changes nothing, or reads a free value. -/

namespace Sys2Proof

/-- The length an image read takes: 8 bytes when the header fails checks 1 to 3 of R172, else the image length. -/
def ImageRead.needed : ImageRead → Nat
  | .failed _ => 0
  | .bytes (m0 :: m1 :: f :: _ :: l0 :: l1 :: _ :: _ :: _) =>
    let length := 256 * l0.toNat + l1.toNat
    if m0 = 0xE6#8 ∧ m1 = 0xB3#8 ∧ f = 1#8 ∧ 32 ≤ length ∧ length ≤ 2000 then length else 8
  | .bytes _ => 8

/-- A failure of a read transaction: it sends 4 bytes, the last after a repeated start (R171, R178). -/
def BusFailure.wfRead : BusFailure → Bool
  | .noAck n => n < 4
  | _ => true

/-- A failure of the epoch write, which sends 4 bytes and makes no repeated start (R178). -/
def BusFailure.wfWrite : BusFailure → Bool
  | .sdaLowAgain => false
  | .noAck n => n < 4
  | .sdaLow => true

/-- The operand checks: a source record has node number 1 to 62 (R57), a watch slot is 0 to 31 (R108), at most
three 2-bit steps follow the last whole byte (R8), the operand of an image read supplies every byte read (R171), and a
failure names a start condition or a byte of its transaction (R171, R178). -/
def Instr.wf : Instr → Bool
  | .silenceExpiry node => 1 ≤ node && node ≤ 62
  | .streamTimerExpiry slot => slot < 32
  | .laneTimerExpiry slot _ => slot < 32
  | .startDeadlineExpiry slot => slot < 32
  | .frameEnd _ _ steps => steps < 4
  | .imageReadAttempt (.bytes given) => (ImageRead.bytes given).needed ≤ given.length
  | .imageReadAttempt (.failed f) => f.wfRead
  | .epochReadAttempt (.failed f) => f.wfRead
  | .epochWrite (some f) => f.wfWrite
  | _ => true

end Sys2Proof
end

