-- ==== Sys2Proof/Tests/Slice0.lean ====
section
/-! SUPPORT. Tests: the well-formedness checks, the manual's worked values, and for each statement with hypotheses a
concrete state and operands that meet them (`…_met`), each clause at a boundary of its range. -/

namespace Sys2Proof.Tests

set_option Elab.async false

open Sys2Proof Sys2Proof.Machine

/-! ## Ill-formed commands (R57, R108, R8, R171, R178) -/

theorem test_wf_record_0 : (Instr.silenceExpiry 0).wf = false := by decide

theorem test_wf_record_63 : (Instr.silenceExpiry 63).wf = false := by decide

theorem test_wf_slot_32 :
    (Instr.streamTimerExpiry 32).wf = false ∧ (Instr.laneTimerExpiry 32 .e).wf = false ∧
      (Instr.startDeadlineExpiry 32).wf = false := by decide

theorem test_wf_four_steps : (Instr.frameEnd .tap [] 4).wf = false := by decide

theorem test_wf_short_image : (Instr.imageReadAttempt (.bytes [0xE6, 0xB3, 1, 0, 0, 32, 5, 0])).wf = false := by decide

theorem test_wf_failures :
    (Instr.imageReadAttempt (.failed (.noAck 4))).wf = false ∧ (Instr.epochReadAttempt (.failed (.noAck 4))).wf = false ∧
      (Instr.epochWrite (some (.noAck 4))).wf = false ∧ (Instr.epochWrite (some .sdaLowAgain)).wf = false := by decide

theorem test_wf_accepts :
    (Instr.silenceExpiry 1).wf = true ∧ (Instr.silenceExpiry 62).wf = true ∧ (Instr.laneTimerExpiry 31 .w).wf = true ∧
      (Instr.frameEnd .tap [] 3).wf = true ∧ (Instr.imageReadAttempt (.failed (.noAck 3))).wf = true ∧
      (Instr.epochReadAttempt (.failed .sdaLowAgain)).wf = true ∧ (Instr.epochWrite (some (.noAck 3))).wf = true := by
  decide

/-! ## Check sequences and formats: the manual's own values (R7, R21, R172, R192) -/

/-- The nine ASCII bytes "123456789". -/
def digits : List Byte := [0x31, 0x32, 0x33, 0x34, 0x35, 0x36, 0x37, 0x38, 0x39]

theorem test_fcs_check_value : crc32 digits = 0xCBF43926 := by decide +kernel

theorem test_trailer_check_value : crc8 digits = 0xF4 := by decide +kernel

theorem test_image_crc_check_value : crc16 digits = 0x4B37 := by decide +kernel

/-- R192's example: seq 500, source 2, epoch 6, lane W, class STREAM, hops 3. -/
def example192 : Trailer := ⟨500, 2, 0, 6, 0, .w, 3, 1⟩

theorem test_trailer_layout : example192.encode.take 5 = [0x01, 0xF4, 0x08, 0x61, 0x0D] := by decide +kernel

theorem test_trailer_next_hop : ({ example192 with hops := 4 } : Trailer).encode.take 5 =
    [0x01, 0xF4, 0x08, 0x61, 0x11] := by decide +kernel

/-! ## States -/

/-- A port that is UP, with a scan window that ends at timer unit 10000. -/
def unit : PortUnit := { state := .up, window := some ⟨0, 10000⟩ }

/-- A RUNNING node of number 1, own epoch 3 and origin tag 9, with every port UP, at timer unit 10000. -/
def running : State where
  clock := ⟨5000000, 100000, 10000⟩
  pins := { rst := true, links := ⟨true, true, true⟩ }
  loader := {
    nodeState := .running
    ownEpoch := 3
    config := some { nodeNumber := 1, originTag := 9, timeSource := 2, timePeriod := 1 } }
  ports := ⟨unit, unit, unit⟩
  check := { number := 5, period := some ⟨0, 10000⟩ }

/-- The same node with a port DOWN. -/
def State.without (p : Port) (s : State) : State := s.setPort p {}

/-- A buffer with a ring frame of this body and trailer. -/
def ringBuffer (body : List Byte) (t : Trailer) : Buffer := ⟨1, body ++ t.encode, false⟩

/-- The running node with a ring frame handed over by the East port, node time 7 at its arrival. -/
def handing (body : List Byte) (t : Trailer) : State :=
  { running with
    pool := { bufs := [(0, ringBuffer body t)] }
    handed := ⟨[⟨0, 7⟩], []⟩ }

/-- A trailer of lane W with hops 0, as the East port of a neighbour receives it. -/
def trailerOf (source : BitVec 6) (kind : BitVec 3) (seq : Seq) (epoch : BitVec 4) : Trailer :=
  ⟨seq, source, 0, epoch, kind, .w, 0, 0⟩

/-- A pool with no buffer free. -/
def fullPool : Pool := { bufs := (List.range 256).map fun i => (i, ⟨1, [], false⟩), low := 0 }

/-- A pool with `n` buffers in use. -/
def poolOf (n : Nat) : Pool := { bufs := (List.range n).map fun i => (i, ⟨1, [], false⟩), low := 256 - n }

/-- An entry of buffer 0 that joined at timer unit 10000. -/
def entry (m : Mark) : Entry := ⟨0, m, 10000⟩

/-- 64 bytes that end in their frame check sequence. -/
def intact64 : List Byte := withFcs (zeros 60)

/-! ## The block -/

theorem test_front_met : ({ running with pending := [.zero, .report] } : State).pending = .zero :: [.report] := by decide

theorem test_time_passes_met : State.reset.pending = [] ∧ State.reset.clock = {} := by decide

/-- R139, R140: the 50th REFCLK cycle advances node time and the 500th the timer-unit count. -/
theorem test_clock_divides :
    (Clock.mk 49 0 0).tick = ⟨50, 1, 0⟩ ∧ (Clock.mk 498 9 0).tick = ⟨499, 9, 0⟩ ∧
      (Clock.mk 499 9 0xFFFFFFFF).tick = ⟨500, 10, 0⟩ := by decide

/-! ## Starts -/

theorem test_starts_met : State.reset.loader.nodeState = .reset ∧ running.loader.nodeState ≠ .reset := by decide

/-- A RESTART reply that the tap port is sending, its last byte just sent. -/
def sendingReply : State := running.setEg .tap { tx := .sending 0 (.localFrame true) [] 5000000 }

/-- A RESTART reply that waits in the tap's BULK queue. -/
def waitingReply : State := running.setEg .tap { bulk := [entry .delivered, entry (.localFrame true)] }

/-- A RESTART command at the head of the queue, its reply not made. -/
def restarting : State := { running with report := { queue := [{ code := 5, page := 0, source := 0 }] } }

theorem test_restart_end_met :
    ((sendingReply.eg .tap).tx = .sending 0 (.localFrame true) [] 5000000 ∧ 5000000 ≤ sendingReply.clock.refclk ∧
        sendingReply.isDown .tap = false) ∧
      (waitingReply.isDown .tap = false ∧ entry (.localFrame true) ∈ (waitingReply.eg .tap).bulk) ∧
      (restarting.report.queue = [{ code := 5, page := 0, source := 0 }] ∧
        ({ restarting with pool := poolOf 207 } : State).free = 49 ∧
        (restarting.setPort .tap {}).isDown .tap = true ∧
        96 ≤ ((restarting.setEg .tap { bulk := List.replicate 96 (entry .delivered) }).eg .tap).bulk.length) := by
  decide +kernel

/-! ## Chapter 1 -/

theorem test_link_fall_met : running.isDown .east = false ∧ running.isDown .tap = false := by decide

theorem test_ring_port_fall_met : running.isDown RingPort.west.port = false ∧ running.member = true ∧
    running.cfg.autoRoll = false ∧ running.check.ring ≠ .opened ∧ ({ ring := .opened } : RingCheck).ring = .opened := by
  decide

/-- The running node with the East port DOWN, its link high and its qualification time just run out. -/
def qualified : State := running.setPort .east { qual := some ⟨8000, 2000⟩ }

theorem test_qualification_met :
    qualified.isDown .east = true ∧ qualified.pins.links.get .east = true ∧
      qualified.clock.due (qualified.port .east).qual = true ∧
      running.isDown .east = false ∧
      (running.setPort .east { qual := some ⟨8001, 2000⟩ }).clock.due (some ⟨8001, 2000⟩) = false := by decide

/-- The running node with a window that ends now with these counts. -/
def windowOf (errors good : Nat) : State :=
  running.setPort .west { unit with errors := errors, good := good, flags := ⟨true, false, true⟩ }

theorem test_window_end_met :
    (windowOf 11 0).isDown .west = false ∧
      (windowOf 11 0).clock.due ((windowOf 11 0).port .west).window = true ∧
      (windowOf 11 0).errorBound < ((windowOf 11 0).port .west).errors ∧
      ((windowOf 10 0).port .west).errors ≤ (windowOf 10 0).errorBound := by decide

/-- R13's example: 11 errors with E 10 make the port DEGRADED. -/
theorem test_window_end_degrades :
    ((windowOf 11 0).port .west |>.judgeWindow .west 10 0 10000).state = .degraded ∧
      ((windowOf 10 0).port .west |>.judgeWindow .west 10 0 10000).state = .up := by decide

/-- The running node with no buffer free. -/
def starved : State := { running with pool := fullPool }

theorem test_frame_start_met :
    running.isDown .east = false ∧ (running.port .east).rx = .idle ∧ running.pool.wf = true ∧ running.member = true ∧
      0 < running.free ∧ (poolOf 255).wf = true ∧ (poolOf 255).free = 1 := by decide +kernel

theorem test_frame_start_starved_met :
    starved.isDown .east = false ∧ (starved.port .east).rx = .idle ∧ starved.pool.wf = true ∧ starved.member = true ∧
      starved.free = 0 := by decide +kernel

/-- A node with its ports UP in another node state. -/
def inState (n : NodeState) : State := { running with loader := { nodeState := n }, check := {} }

theorem test_frame_start_outside_met :
    State.reset.isDown .east = true ∧
      ((inState .loading).isDown .tap = false ∧ ((inState .loading).port .tap).rx = .idle ∧
        (inState .loading).loader.nodeState = .loading) ∧
      ((inState .transit).isDown .tap = false ∧ ((inState .transit).port .tap).rx = .idle ∧
        (inState .transit).loader.nodeState = .transit ∧ 0 < (inState .transit).free) ∧
      ((inState .transit).isDown .east = false ∧ ((inState .transit).port .east).rx = .idle ∧
        (inState .transit).loader.nodeState ≠ .reset ∧ (inState .transit).member = false ∧
        ((inState .transit).dir .east).first = .free) ∧
      (((inState .transit).setDir .east { first := .receiving }).dir .east).second = .free ∧
      (((inState .transit).setDir .east { first := .holding [], second := .receiving }).dir .east).second ≠ .free := by
  decide

/-- A port's receiver in this state. -/
def receiving (p : Port) (rx : Receiver) : State := running.setPort p { unit with rx := rx }

theorem test_giant_met :
    ((receiving .east (.storing 0)).port .east).rx = .storing 0 ∧
      ((receiving .tap (.discarding false)).port .tap).rx = .discarding false ∧
      ((receiving .west (.repeating true)).port .west).rx = .repeating true ∧
      (running.port .east).rx = .idle := by decide

theorem test_faulty_frames_met :
    (((receiving .east (.storing 0)).port .east).rx = .storing 0 ∧
        ((receiving .tap (.discarding false)).port .tap).rx = .discarding false ∧
        ((receiving .west (.repeating true)).port .west).rx = .repeating true ∧
        ((receiving .west (.unkept true)).port .west).rx = .unkept true ∧ RingPort.west.port = .west) ∧
      (longest .tap < (zeros 1523).length ∧ longest .east < (zeros 1529).length) ∧
      ((zeros 63).length ≤ longest .east ∧ (zeros 63).length < 64) ∧
      ((zeros 1528).length ≤ longest .east ∧ 3 % 4 ≠ 0) ∧
      ((zeros 1522).length ≤ longest .tap ∧ fcsOk (zeros 64) = false) ∧
      (64 ≤ intact64.length ∧ intact64.length ≤ longest .tap ∧ 4 % 4 = 0 ∧ fcsOk intact64 = true) := by
  decide +kernel

theorem test_intact_ring_met :
    ((receiving .east (.storing 0)).port .east).rx = .storing 0 ∧ Port.east = RingPort.east.port ∧
      64 ≤ intact64.length ∧ intact64.length ≤ longest .east ∧ 0 % 4 = 0 ∧ fcsOk intact64 = true := by decide +kernel

/-! ## Chapter 2 -/

/-- A frame of 64 bytes with this destination and type, ending in its frame check sequence. -/
def tapFrame (dst : List Byte) (type : List Byte) : List Byte := withFcs (dst ++ zeros 6 ++ type ++ zeros 46)

/-- A frame to the control address of `running`. -/
def controlFrame : List Byte := tapFrame [2, 0, 0, 0, 0, 0] [0xB7, 0xC2]

theorem test_tap_traffic_met :
    let s := { receiving .tap (.storing 0) with pool := poolOf 208 }
    (s.port .tap).rx = .storing 0 ∧ 64 ≤ intact64.length ∧ intact64.length ≤ 1522 ∧ fcsOk intact64 = true ∧
      s.member = true ∧ destination intact64 ≠ s.cfg.control ∧
      (classify s.cfg.classMap intact64).threshold ≤ s.free ∧
      ((s.eg .east).queue (classify s.cfg.classMap intact64)).length < (classify s.cfg.classMap intact64).depth ∧
      ((s.eg .west).queue (classify s.cfg.classMap intact64)).length < (classify s.cfg.classMap intact64).depth ∧
      (s.setPort .east {}).isDown .east = true := by decide +kernel

/-- R24, R25: a map entry decides before the tag; without one the priority does. -/
theorem test_classes :
    classify [(0x88BA, .stream), (0x88BA, .urgent)] (tapFrame (zeros 6) [0x88, 0xBA]) = .stream ∧
      classify [] (zeros 12 ++ [0x81, 0x00, 0x60, 0x00, 0x88, 0xBA]) = .bulk ∧
      classify [] (zeros 12 ++ [0x81, 0x00, 0x80, 0x00, 0x88, 0xBA]) = .stream ∧
      classify [] (zeros 12 ++ [0x81, 0x00, 0xA0, 0x00, 0x88, 0xBA]) = .urgent := by decide +kernel

theorem test_classes_met :
    let f := tapFrame (zeros 6) [0x88, 0xBA]
    let g (b : Byte) : List Byte := zeros 12 ++ [0x81, 0x00, b, 0x00, 0x88, 0xBA]
    typeField f = 0x88BA ∧ tagged f = false ∧ (∀ b : Byte, b = 0x7F ∨ b = 0x80 ∨ b = 0xA0 → tagged (g b) = true) ∧
      tagPriority (g 0x7F) = 3 ∧ tagPriority (g 0x80) = 4 ∧ tagPriority (g 0xA0) = 5 := by
  refine ⟨by decide +kernel, by decide +kernel, ?_, by decide, by decide, by decide⟩
  rintro b (rfl | rfl | rfl) <;> decide

theorem test_control_frames_met :
    ((receiving .tap (.storing 0)).port .tap).rx = .storing 0 ∧ controlFrame.length = 64 ∧ fcsOk controlFrame = true ∧
      destination controlFrame = running.cfg.control ∧ destination intact64 ≠ (inState .transit).cfg.control ∧
      (inState .transit).loader.nodeState = .transit := by decide +kernel

/-! ## Chapter 3 -/

/-- A frame whose trailer check differs. -/
def badCheck : State :=
  { handing (zeros 54) (trailerOf 2 0 5 3) with pool := { bufs := [(0, ⟨1, zeros 59 ++ [1], false⟩)] } }

theorem test_foreign_met :
    badCheck.member = true ∧ badCheck.handed.get .east = [⟨0, 7⟩] ∧
      trailerCheckOk (badCheck.buffer 0).trailerBytes = false ∧
      ((handing (zeros 54) (trailerOf 0 0 5 3)).buffer 0).trailer.source = 0 ∧
      ((handing (zeros 54) (trailerOf 63 0 5 3)).buffer 0).trailer.source = 63 ∧
      4 ≤ ((handing (zeros 54) (trailerOf 2 4 5 3)).buffer 0).trailer.kind.toNat ∧
      badCheck.isDown RingPort.east.port = false := by decide +kernel

/-- A peer's DATA frame of class BULK at a pool with 47 buffers free. -/
def crowded : State :=
  { handing (zeros 54) (trailerOf 2 0 5 3) with
    pool := { bufs := (0, ringBuffer (zeros 54) (trailerOf 2 0 5 3)) ::
      (List.range 208).map fun i => (i + 1, ⟨1, [], false⟩) } }

theorem test_refused_met :
    crowded.member = true ∧ crowded.handed.get .east = [⟨0, 7⟩] ∧ ringKind (crowded.buffer 0) = some .data ∧
      crowded.free = 47 ∧
      crowded.free < (classOfField (crowded.buffer 0).trailer.cls).threshold := by decide +kernel

theorem test_refused_tap_met :
    let s := { receiving .tap (.storing 0) with pool := poolOf 209 }
    (s.port .tap).rx = .storing 0 ∧ 64 ≤ intact64.length ∧ intact64.length ≤ 1522 ∧ fcsOk intact64 = true ∧
      s.member = true ∧ s.isDown .tap = false ∧ destination intact64 ≠ s.cfg.control ∧ s.free = 47 ∧
      s.free < (classify s.cfg.classMap intact64).threshold := by decide +kernel

/-- An own frame of number 0 as the sequence counter stands at `seq`. -/
def owning (kind : BitVec 3) (seq : Seq) : State :=
  { handing (zeros 54) (trailerOf 1 kind 0 3) with tagger := { seq := seq } }

theorem test_own_frames_met :
    (owning 0 1024).member = true ∧ (owning 0 1024).handed.get .east = [⟨0, 7⟩] ∧
      ringKind ((owning 0 1024).buffer 0) = some .data ∧ ringKind ((owning 3 1025).buffer 0) = some .time ∧
      ((owning 0 1024).buffer 0).trailer.source = (owning 0 1024).node ∧ 48 ≤ (owning 0 1024).free ∧
      ((owning 0 1024).tagger.seq - ((owning 0 1024).buffer 0).trailer.seq - 1).toNat = 1023 ∧
      ((owning 3 1025).tagger.seq - ((owning 3 1025).buffer 0).trailer.seq - 1).toNat = 1024 := by decide +kernel

/-- A LIVE record with top 5, epoch 3 and lane W's mark alone at position 0. -/
def heard : SourceRecord := { live := true, top := 5, span := 1, mapW := 1, epoch := 3, silence := some ⟨0, 50000⟩ }

/-- A peer's frame of number `seq` and this hop count, whose source's record is `heard`. -/
def peering (kind : BitVec 3) (hops : BitVec 6) (seq : Seq) (lane : Lane) : State :=
  { handing (zeros 54) { trailerOf 2 kind seq 3 with hops := hops, lane := lane } with
    sources := running.sources.setIfInBounds 1 heard }

theorem test_peer_data_met :
    let s := peering 0 61 6 .w
    s.member = true ∧ s.handed.get .east = [⟨0, 7⟩] ∧ ringKind (s.buffer 0) = some .data ∧
      (s.buffer 0).trailer.source ≠ s.node ∧ Machine.Class.threshold .bulk ≤ s.free ∧
      ((s.eg .west).queue .bulk).length < 96 ∧ ((s.eg .tap).queue .bulk).length < 96 ∧
      ¬ s.cfg.profile.hopLimit ≤ (s.buffer 0).trailer.hops.toNat ∧
      s.isDown RingPort.east.opposite.port = false ∧ s.isDown .tap = false ∧ s.cfg.passes (s.buffer 0).body = true ∧
      (s.record 2).live = true ∧
      ((s.record 2).judge 8 6 3 .w 7 ⟨10000, 50000⟩).verdict = .first ∧
      ((s.record 2).judge 8 5 3 .e 7 ⟨10000, 50000⟩).verdict = .duplicate ∧
      ((s.record 2).judge 8 5 3 .w 7 ⟨10000, 50000⟩).verdict = .repeated ∧
      ((s.record 2).judge 8 65477 3 .w 7 ⟨10000, 50000⟩).verdict = .stale ∧
      s.cfg.profile.hopLimit ≤ ((peering 0 62 6 .w).buffer 0).trailer.hops.toNat ∧
      (s.setPort .tap {}).isDown .tap = true ∧ (s.setPort .west {}).isDown .west = true ∧
      ({ s.cfg with filterPass := false } : Settings).passes (s.buffer 0).body = false := by decide +kernel

theorem test_checks_and_rolls_met :
    running.member = true ∧ ringKind ((peering 1 61 6 .w).buffer 0) = some .check ∧
      ((peering 1 61 6 .w).buffer 0).trailer.source ≠ running.node ∧
      ((peering 1 61 6 .w).buffer 0).trailer.hops.toNat < running.cfg.profile.hopLimit ∧
      ringKind ((peering 2 62 6 .w).buffer 0) = some .roll ∧
      running.cfg.profile.hopLimit ≤ ((peering 2 62 6 .w).buffer 0).trailer.hops.toNat ∧
      ringKind ((owning 2 0).buffer 0) = some .roll ∧ ((owning 2 0).buffer 0).trailer.source = running.node := by
  decide +kernel

/-- A TIME copy of number 6 with these hops, at a West egress whose URGENT queue holds `n` entries. -/
def timing (hops : BitVec 6) (n : Nat) : State :=
  (peering 3 hops 6 .w).setEg .west { urgent := List.replicate n (entry .forwarded) }

theorem test_time_copies_met :
    let s := timing 61 31
    s.member = true ∧ s.handed.get .east = [⟨0, 7⟩] ∧ ringKind (s.buffer 0) = some .time ∧
      (s.buffer 0).trailer.source ≠ s.node ∧ (s.buffer 0).trailer.source = s.cfg.timeSource ∧
      ((s.record 2).judge 8 6 3 .w 7 ⟨10000, 50000⟩).verdict = .first ∧
      ((s.record 2).judge 8 5 3 .e 7 ⟨10000, 50000⟩).verdict = .duplicate ∧
      ((s.record 2).judge 8 5 3 .w 7 ⟨10000, 50000⟩).verdict = .repeated ∧
      ¬ s.cfg.profile.hopLimit ≤ (s.buffer 0).trailer.hops.toNat ∧
      s.isDown RingPort.east.opposite.port = false ∧ (s.eg RingPort.east.opposite.port).urgent.length < 32 ∧
      s.pool.wf = true ∧ s.pool.get? 0 = some (s.buffer 0) ∧
      32 ≤ ((timing 61 32).eg RingPort.east.opposite.port).urgent.length ∧
      (s.setPort .west {}).isDown RingPort.east.opposite.port = true ∧
      s.cfg.profile.hopLimit ≤ ((timing 62 0).buffer 0).trailer.hops.toNat := by decide +kernel

theorem test_clash_hold_met :
    let s := { running with filter := { clash := true, hold := some ⟨0xFFFEA070, 100000⟩ } }
    s.clock.due s.filter.hold = true ∧ s.filter.clash = true ∧ running.clock.due running.filter.hold = false ∧
      running.clock.due (some ⟨0xFFFEA071, 100000⟩) = false := by
  decide

/-! ## Chapter 4 -/

theorem heard_law : heard.Law := by
  refine ⟨fun h => by simp [heard] at h, fun _ => ⟨by decide, by decide, Or.inr (by decide), ?_, by decide, by decide,
    by decide, rfl⟩⟩
  intro x k hk
  have hk : 1 ≤ k := hk
  cases x <;> simp [SourceRecord.bit, SourceRecord.map, heard]
  omega

theorem test_two_lanes_met :
    SourceRecord.Law {} ∧ heard.Law ∧ (1 ≤ (6 - heard.top).toNat ∧ (6 - heard.top).toNat ≤ 32767) ∧
      ((heard.top - 65478).toNat = 63 ∧ heard.bit .e 63 = false ∧ heard.bit .w 63 = false) :=
  ⟨⟨fun _ => rfl, fun h => by simp at h⟩, heard_law, by decide, by decide⟩

/-- R65's example: top 500 with span 3, and a lane-W copy of 490 is a late first copy that makes the span 11. -/
theorem test_late_first_copy :
    let r : SourceRecord := { heard with top := 500, span := 3, mapW := 7 }
    let j := r.judge 8 490 3 .w 7 ⟨0, 50000⟩
    j.verdict = .first ∧ j.src.bit .w 10 = true ∧ j.src.span = 11 := by decide +kernel

theorem test_window_copies_met :
    heard.live = true ∧ heard.Law ∧ (0 ≤ 63 ∧ heard.bit .w 0 = true) ∧
      (heard.bit .e 0 = false ∧ heard.bit Lane.e.other 0 = true) ∧
      (63 ≤ 63 ∧ heard.bit .e 63 = false ∧ heard.bit Lane.e.other 63 = false) :=
  ⟨rfl, heard_law, by decide, by decide, by decide⟩

theorem test_restarts_met :
    heard.live = true ∧ ((4 - heard.epoch).toNat = 1 ∧ (11 - heard.epoch).toNat = 8) ∧ (12 - heard.epoch).toNat = 9 ∧
      ((heard.top - 65477).toNat = 64 ∧ (heard.top - 32773).toNat = 32768) ∧ heard.staleRun ≤ 6 ∧
      7 ≤ ({ heard with staleRun := 7 } : SourceRecord).staleRun := by decide

/-- R70 to R73: what leaves the window. Position 63 leaves an advance by 1 when the span is 64: here it holds lane E's
mark alone, the eighth in a row, so the path becomes EAST-ONLY. -/
def eighth : SourceRecord :=
  { heard with span := 64, mapW := 1, mapE := 1#64 <<< 63, westMiss := 7 }

theorem test_ahead_met : heard.live = true ∧ 1 ≤ 1 ∧ 32767 ≤ 32767 ∧ eighth.live = true := by decide

theorem test_ahead_accounts :
    let j := eighth.judge 8 6 3 .w 0 ⟨0, 50000⟩
    j.src.path = .eastOnly ∧ j.src.westMiss = 8 ∧ j.src.counters.westSingles = 1 ∧ j.noted = true ∧
      (heard.judge 8 70 3 .w 0 ⟨0, 50000⟩).src.counters.missed = 1 := by decide +kernel

theorem test_first_twice_met :
    let start := SourceRecord.judge 8 5 3 .e 0 ⟨0, 50000⟩ {}
    let later := (start.src.judge 8 32773 3 .e 0 ⟨0, 50000⟩).src
    let stop := later.judge 8 5 3 .w 0 ⟨0, 50000⟩
    start.verdict = .first ∧ (start.src.top - 5).toNat + (later.top - start.src.top).toNat ≤ 32768 ∧
      stop.src.counters.restarts = start.src.counters.restarts ∧ start.src.counters.restarts ≠ 4294967295 ∧
      stop.src.counters.resyncs = start.src.counters.resyncs ∧ start.src.counters.resyncs ≠ 4294967295 := by
  decide +kernel

theorem test_taken_met :
    let r : SourceRecord := { heard with top := 32773 }
    (heard.Taken 5 0 ∧ r.Taken 5 32768) ∧ (0 + 32768 ≤ 32768) ∧
      ((heard.judge 8 5 3 .w 0 ⟨0, 50000⟩).src.counters.restarts = heard.counters.restarts ∧
        (heard.judge 8 5 3 .w 0 ⟨0, 50000⟩).src.counters.resyncs = heard.counters.resyncs ∧
        heard.counters.restarts ≠ 4294967295 ∧ heard.counters.resyncs ≠ 4294967295) ∧
      (heard.judge 8 6 3 .w 0 ⟨0, 50000⟩).verdict = .first ∧
      ∃ t, step { running with sources := running.sources.setIfInBounds 1 heard } = .next t := by
  refine ⟨⟨⟨rfl, by decide, by decide, fun _ => Or.inr (by decide)⟩, rfl, by decide, by decide,
    fun h => absurd h (by decide)⟩, by decide, by decide, by decide, _, rfl⟩

theorem test_source_law_met : running.SourceLaw ∧ ∃ t, step running = .next t := by
  refine ⟨fun r h => ?_, _, rfl⟩
  have : r = {} := by
    simp only [running, Vector.toList_replicate] at h
    exact List.eq_of_mem_replicate h
  subst this
  exact ⟨fun _ => rfl, fun h => by simp at h⟩

theorem test_silence_met :
    let s := { running with sources := running.sources.setIfInBounds 61 { heard with silence := some ⟨0, 10000⟩ } }
    (s.record 62).live = true ∧ s.clock.due (s.record 62).silence = true ∧
      (s.record 1).live = false ∧ s.clock.due (s.record 1).silence = false := by decide +kernel

/-! ## Chapter 5 -/

/-- A law's hypothesis and a step to go with it: the running node, whose queue of commands is empty. -/
theorem test_list_laws_met :
    (running.QueueLaw ∧ running.PoolLaw ∧ running.ChangeListLaw ∧ running.ReportQueueLaw) ∧
      ∃ t, step running = .next t := by
  refine ⟨⟨fun p c => ?_, by unfold State.PoolLaw; decide, by unfold State.ChangeListLaw; decide,
    by unfold State.ReportQueueLaw; decide⟩, _, rfl⟩
  cases p <;> cases c <;> decide

/-- R185: the clauses of what noting an item does. -/
theorem test_note_met :
    let others : List Item := (List.range 16).map .slot
    Item.roll ∈ [Item.clash, .roll] ∧ State.reset.loader.nodeState = .reset ∧ running.loader.nodeState ≠ .reset ∧
      Item.roll ∉ others ∧ 16 ≤ others.length ∧ Item.roll ∉ others.take 15 ∧ (others.take 15).length < 16 := by decide

theorem test_holds_met : running.HoldsLaw ∧ ∃ t, step running = .next t := by
  refine ⟨⟨by decide, fun i => ?_⟩, _, rfl⟩
  rfl

theorem test_enqueue_met :
    let full := running.setEg .tap { urgent := List.replicate 32 (entry .delivered) }
    running.isDown .tap = false ∧
      ((running.eg .tap).queue .urgent).length < Machine.Class.depth .urgent ∧
      Machine.Class.depth .urgent ≤ ((full.eg .tap).queue .urgent).length ∧ full.isDown .tap = false ∧
      (running.setPort .tap {}).isDown .tap = true := by decide

/-- The East egress with these queues, the stream age limit at 3 (300 µs). -/
def queued (urgent stream bulk : List Entry) : State :=
  { running.setEg .east { urgent := urgent, stream := stream, bulk := bulk } with
    loader := { running.loader with config := some { nodeNumber := 1, profile := { streamAge := 3 } } } }

/-- R96's example: an entry that joined 30 timer units ago is not too old for a limit of 3, one of 40 is. -/
theorem test_stream_age : tooOld 3 100 ⟨0, .forwarded, 70⟩ = false ∧ tooOld 3 100 ⟨0, .forwarded, 60⟩ = true := by
  decide

/-- The STREAM queue of this state's East port: an entry just too old before one that is not. -/
def aging : State := queued [] [⟨0, .forwarded, 9969⟩, ⟨0, .delivered, 9970⟩] [entry .forwarded]

theorem test_arbiter_met :
    (queued [entry .forwarded] [] []).mayChoose .east = true ∧
      ((queued [entry .forwarded] [] []).eg .east).urgent = [entry .forwarded] ∧
      (aging.mayChoose .east = true ∧ (aging.eg .east).urgent = [] ∧
        (aging.eg .east).stream = [⟨0, .forwarded, 9969⟩] ++ [⟨0, .delivered, 9970⟩] ∧
        aging.cfg.profile.streamAge = 3 ∧ 3 * 10 < (aging.clock.timerUnits - 9969).toNat ∧
        (aging.clock.timerUnits - 9970).toNat = 30) ∧
      ((queued [] [] [entry .forwarded]).mayChoose .east = true ∧
        ((queued [] [] [entry .forwarded]).eg .east).bulk = [entry .forwarded]) ∧
      (queued [] [⟨0, .forwarded, 9969⟩] []).mayChoose .east = true ∧
      (queued [] [] []).mayChoose .east = false := by decide

/-- R170, log 10: only the first choice of the run waits for the repeater's frames. -/
theorem test_first_choice_waits :
    let s := (queued [entry .forwarded] [] []).setDir .west { first := .holding [] }
    s.mayChoose .east = false ∧ (s.setEg .east { s.eg .east with chosen := true }).mayChoose .east = true := by decide

theorem test_transmission_met :
    let s (done : Nat) := running.setEg .west { tx := .sending 0 .forwarded [] done }
    ((s 5000000).eg .west).tx = .sending 0 .forwarded [] 5000000 ∧ 5000000 ≤ (s 5000000).clock.refclk ∧
      Mark.forwarded ≠ .localFrame true ∧ (s 5000001).clock.refclk < 5000001 := by decide

theorem test_shaped_met :
    6 ≤ (ringBuffer [] example192).data.length ∧ Kind.data ≠ .time ∧ 18 ≤ (Buffer.mk 1 (zeros 60) false).data.length := by
  decide +kernel

theorem test_port_law_met : running.PortLaw ∧ running.WindowLaw ∧ ∃ t, step running = .next t := by
  refine ⟨fun p => ?_, fun p => ?_, _, rfl⟩ <;> cases p <;> decide

/-! ## The repeater path -/

/-- A node in TRANSIT whose West port receives into a store of its direction. -/
def storing : State :=
  ((inState .transit).setPort .west { unit with rx := .repeating true }).setDir .west { first := .receiving }

/-- A node in TRANSIT whose East port is sending, or may send, the store that holds a frame from the West. -/
def repeating (tx : Transmitter) (order : List Bool) : State :=
  ((inState .transit).setEg .east { tx := tx }).setDir .west { first := .holding intact64, order := order }

/-- The same node with a frame from the West that waits for the East transmitter. -/
def storingSecond (tx : Transmitter) : State :=
  (storing.setEg .east { tx := tx }).setDir .west
    { first := .receiving, second := .holding intact64, order := [false] }

theorem test_send_order_met :
    let s := storingSecond (.gap 5000000)
    (s.port RingPort.west.port).rx = .repeating true ∧ s.isDown RingPort.west.opposite.port = false ∧
      (s.eg RingPort.west.opposite.port).tx = .gap 5000000 ∧ 5000000 ≤ s.clock.refclk ∧
      (s.dir .west).order = false :: [] ∧ (s.dir .west).store false = .holding intact64 ∧
      (((storingSecond (.gap 5000001)).eg RingPort.west.opposite.port).tx = .gap 5000001 ∧
        ¬ 5000001 ≤ s.clock.refclk) := by decide +kernel

theorem test_repeater_met :
    ((storing.port RingPort.west.port).rx = .repeating true ∧ intact64.length = 64 ∧ fcsOk intact64 = true ∧
        storing.isDown RingPort.west.opposite.port = false ∧ (storing.dir .west).order = [] ∧
        (storing.eg RingPort.west.opposite.port).tx = .free ∧
        (storing.setPort .east {}).isDown RingPort.west.opposite.port = true) ∧
      ((storing.setPort .west { unit with rx := .unkept false }).port RingPort.west.port).rx = .unkept false ∧
      (((repeating (.repeating true intact64 5000000) []).eg RingPort.east.port).tx =
          .repeating true intact64 5000000 ∧ 5000000 ≤ (inState .transit).clock.refclk) ∧
      (((repeating (.gap 5000000) [true]).dir RingPort.east.opposite).order = [true] ∧
        ((repeating (.gap 5000000) [true]).dir RingPort.east.opposite).store true = .holding intact64 ∧
        (repeating (.gap 5000000) [true]).mayRepeat .east = true) ∧
      ((repeating (.gap 5000000) [true]).isDown RingPort.east.port = false ∧
        storing.isDown RingPort.west.port = false) := by decide +kernel

theorem test_repeater_law_met : storing.RepeaterLaw ∧ ∃ t, step storing = .next t := by
  refine ⟨fun p => ⟨by cases p <;> decide, fun f => ?_⟩, _, rfl⟩
  cases p <;> cases f <;> decide

/-! ## Chapter 6 -/

/-- A slot for source 2 with N 2, M 2 and an interval of 1 ms, in these statuses, its timers due at timer unit 10000. -/
def slotOf (status : StreamStatus) (miss : Nat) (lane : WatchLane) (laneMiss : Nat) : Slot where
  inUse := true
  config := { source := 2, interval := 1, allowN := 2, allowM := 2 }
  status := status
  miss := miss
  timer := some ⟨9990, 10⟩
  lanes := ⟨{}, { status := lane, miss := laneMiss, timer := some ⟨9990, 10⟩ }⟩

/-- The running node with slot 31 so. -/
def watching (w : Slot) : State := { running with slots := running.slots.setIfInBounds 31 w }

theorem test_watch_law_met : (watching { slotOf .live 0 .up 1 with timer := some ⟨9990, 10⟩ }).WatchLaw ∧
    ∃ t, step (watching (slotOf .live 0 .up 1)) = .next t := by
  refine ⟨⟨fun w h => ?_, fun d h => by simp [watching, running] at h⟩, _, rfl⟩
  have h : w = {} ∨ w = slotOf .live 0 .up 1 := by
    simp only [watching, running, Vector.toList, Vector.toArray_setIfInBounds, Array.toList_setIfInBounds,
      Vector.toArray_replicate, Array.toList_replicate] at h
    rcases List.mem_or_eq_of_mem_set h with h | h
    · exact Or.inl (List.eq_of_mem_replicate h)
    · exact Or.inr h
  rcases h with rfl | rfl
  · exact ⟨fun _ => rfl, fun h => by simp at h⟩
  · unfold Slot.Law SlotLane.Law; decide

theorem test_slot_timers_met :
    let w := slotOf .live 0 .up 0
    31 < 32 ∧ (watching w).slot 31 = w ∧ w.status = .live ∧ running.clock.due w.timer = true ∧
      w.miss + 1 < w.config.allowN ∧
      (slotOf .late 1 .up 1).config.allowN ≤ (slotOf .late 1 .up 1).miss + 1 ∧
      running.clock.due (some ⟨9991, 10⟩) = false ∧
      (slotOf .await 0 .await 0).status = .await ∧ running.clock.due (some ⟨0, 10000⟩) = true ∧
      (w.lanes.get .w).status ≠ .down ∧ (w.lanes.get .w).miss + 1 < w.config.allowM ∧
      w.config.allowM ≤ ((slotOf .live 0 .up 1).lanes.get .w).miss + 1 := by decide +kernel

/-- R116: the miss that makes the count N takes a LATE stream to LOST, with both lanes DOWN. -/
theorem test_stream_lost :
    (slotOf .late 1 .up 1).streamExpires.status = .lost ∧ (slotOf .late 1 .up 1).streamExpires.miss = 2 ∧
      (slotOf .late 1 .up 1).streamExpires.lanes.w.status = .down := by decide

theorem test_revival_met :
    let s := { peering 0 0 6 .w with slots := running.slots.setIfInBounds 31 (slotOf .lost 2 .down 2) }
    s.member = true ∧ s.handed.get .east = [⟨0, 7⟩] ∧ ringKind (s.buffer 0) = some .data ∧
      (s.buffer 0).trailer.source ≠ s.node ∧ Machine.Class.threshold .bulk ≤ s.free ∧
      (∀ k < 31, (s.slot k).covers ⟨true, 2, 6, .w, .bulk, 0, 7⟩ = false) ∧
      (s.slot 31).covers ⟨true, 2, 6, .w, .bulk, 0, 7⟩ = true ∧
      ((s.record 2).judge 8 6 3 .w 7 ⟨10000, 50000⟩).verdict = .first := by decide +kernel

/-! ## Chapter 7 -/

/-- The running node with both lanes CLOSED and so the ring. -/
def closedRing : State :=
  { running with check := { running.check with lanes := ⟨{ state := .closed }, { state := .closed }⟩, ring := .closed } }

theorem test_ring_law_met : closedRing.RingLaw ∧ closedRing.check.ring = .closed ∧ ∃ t, step closedRing = .next t := by
  refine ⟨?_, rfl, _, rfl⟩
  refine ⟨by decide, by decide, ?_, ?_, by decide, by decide, fun d h => by simp [closedRing, running] at h⟩ <;>
    (unfold CheckLane.Law; decide)

theorem test_check_period_met :
    running.clock.due running.check.period = true ∧ running.cfg.autoRoll = false ∧ 1 ≤ running.free ∧
      running.pool.wf = true ∧ (running.eg .east).urgent.length < 32 ∧ starved.free = 0 ∧
      (running.setPort .east {}).isDown .east = true ∧ running.clock.due (some ⟨1, 10000⟩) = false ∧
      (running.check.lanes.e.returned = false ∧ running.check.lanes.e.miss + 1 < running.cfg.profile.missLimit) ∧
      running.cfg.profile.missLimit ≤ ({ miss := 2 } : CheckLane).miss + 1 := by decide +kernel

/-- The closed ring with auto-roll set: a port's fall, or a third period without a return, changes the ring state. -/
def autoRolling : State :=
  { closedRing with
    check := { closedRing.check with
      lanes := ⟨{ state := .closed, miss := 2 }, { state := .closed, returned := true }⟩ }
    loader := { closedRing.loader with config := some { nodeNumber := 1, autoRoll := true } } }

/-- With auto-roll a check period's end can change the ring state, or leave it. -/
theorem test_auto_check_period_met :
    (match exec .checkPeriodExpiry autoRolling with
      | .next t => t.check.ring != autoRolling.check.ring
      | _ => false) = true ∧
      (match exec .checkPeriodExpiry { autoRolling with check := closedRing.check } with
      | .next t => t.check.ring == closedRing.check.ring
      | _ => false) = true ∧
      autoRolling.clock.due autoRolling.check.period = true ∧ autoRolling.cfg.autoRoll = true ∧
      autoRolling.report.restartDue = false ∧ autoRolling.roll.running = false ∧
      autoRolling.isDown .east = false ∧
      ({ autoRolling with roll := { running := true } } : State).roll.running = true ∧
      (((autoRolling.setPort .east {}).setPort .west {}).isDown .east = true ∧
        ((autoRolling.setPort .east {}).setPort .west {}).isDown .west = true) ∧
      ({ running with pool := poolOf 255 } : State).free = 1 := by decide +kernel

/-- A CHECK frame of this node with this origin tag and check number. -/
def checkFrame (tag number : Nat) : State :=
  handing (zeros 14 ++ beBytes 4 tag ++ beBytes 4 3 ++ zeros 38) (trailerOf 1 1 (BitVec.ofNat 16 number) 3)

theorem test_returns_met :
    (checkFrame 9 3).member = true ∧ (checkFrame 9 3).handed.get .east = [⟨0, 7⟩] ∧
      ringKind ((checkFrame 9 3).buffer 0) = some .check ∧
      ((checkFrame 9 3).buffer 0).trailer.source = (checkFrame 9 3).node ∧
      fieldAt ((checkFrame 9 3).buffer 0).body 14 4 = 9 ∧ fieldAt ((checkFrame 8 3).buffer 0).body 14 4 ≠ 9 ∧
      ((checkFrame 9 3).check.number - ((checkFrame 9 3).buffer 0).trailer.seq).toNat + 1 = 3 ∧
      ((checkFrame 9 2).check.number - ((checkFrame 9 2).buffer 0).trailer.seq).toNat + 1 = 4 ∧
      (checkFrame 9 3).cfg.autoRoll = false ∧ Lane.e.ownPort = .east ∧ running.isDown RingPort.east.port = false ∧
      (running.port RingPort.east.port).ind.crossed = false := by decide +kernel

theorem test_time_period_met :
    let s := { running with time := { period := some ⟨9000, 1000⟩ } }
    s.clock.due s.time.period = true ∧ running.clock.due running.time.period = false ∧ 1 ≤ s.free ∧
      s.pool.wf = true ∧ (s.eg .west).urgent.length < 32 ∧ s.isDown .east = false ∧ starved.free = 0 ∧
      (s.setPort .east {}).isDown .east = true := by decide +kernel

/-! ## Chapter 8 -/

theorem test_roll_law_met : running.RollLaw ∧ ∃ t, step running = .next t := by
  refine ⟨?_, _, rfl⟩
  unfold State.RollLaw RollLane.Law
  decide

theorem test_round_begins_met :
    running.pool.wf = true ∧ 1 ≤ running.free ∧ running.report.notices.length < 4 ∧ running.isDown .east = false ∧
      running.isDown .west = false ∧ (running.eg .east).urgent.length < 32 ∧ (running.eg .west).urgent.length < 32 ∧
      starved.pool.wf = true ∧ starved.free = 0 ∧ running.loader.nodeState ≠ .reset ∧
      (running.setPort .east {}).isDown .east = true := by decide +kernel

/-- R137, R150: the fall of a ring port starts a round of cause AUTO; its own lane is LOCAL. -/
theorem test_ring_changes_met :
    (match exec (.linkFall .east) autoRolling with
      | .next t => t.check.ring != autoRolling.check.ring && t.roll.running && t.roll.cause == .auto &&
          t.roll.lanes.e.result == .ownPortDown && t.roll.number == 1
      | _ => false) = true ∧
      (match exec .checkPeriodExpiry autoRolling with
      | .next t => t.check.ring == .opened && t.roll.running
      | _ => false) = true ∧
      autoRolling.cfg.autoRoll = true ∧ autoRolling.roll.running = false ∧ autoRolling.roll.again = false ∧
      autoRolling.member = true ∧ autoRolling.report.hold = none ∧ autoRolling.report.notices = [] ∧
      ({ autoRolling with pool := poolOf 207 } : State).free = 49 ∧
      (match exec (.linkFall .east) (autoRolling.setPort .west {}) with
      | .next t => t.check.ring != autoRolling.check.ring && t.isDown .east && t.isDown .west
      | _ => false) = true := by
  decide +kernel

/-- The running node with a command at the head of its queue. -/
def commanded (code : Byte) : State :=
  { running with report := { queue := [{ code := code, page := 9, source := 0 }] } }

/-- A round in progress, its timeout just run out, with this result on lane W. -/
def round (w : LaneResult) : State :=
  { running with roll := { running := true, number := 7, timeout := some ⟨0, 10000⟩, lanes := ⟨{}, { result := w }⟩ } }

theorem test_roll_commands_met :
    (commanded 2).report.queue = [{ code := 2, page := 9, source := 0 }] ∧ (commanded 2).roll.running = false ∧
      (commanded 2).roll.again = false ∧ (round .turned).roll.running = true ∧
      (commanded 3).report.notices.length < 3 ∧ (commanded 2).isDown .east = false ∧
      (((commanded 2).setPort .east {}).setPort .west {}).isDown .east = true ∧
      (((commanded 2).setPort .east {}).setPort .west {}).isDown .west = true := by decide

/-- A ROLL frame body of this originator, round number 7 and flags, with these entries and this count. -/
def rollBody (source flags count : Byte) (entries : List Byte) : List Byte :=
  zeros 14 ++ [source, 7, flags, count] ++ entries ++ zeros 42

/-- An entry of this node number. -/
def entryOf (n : Byte) : List Byte := [n, 0, 0, 0]

/-- A ROLL handed to the roll unit after one from the other port. -/
def rolling (own : Bool) (body : List Byte) (t : Trailer) (s : State) : State :=
  { s with
    pool := { bufs := [(0, ringBuffer body t)] }
    rollIn := [⟨0, .west, own⟩, ⟨0, .east, own⟩] }

theorem test_peer_rolls_met :
    let t := trailerOf 2 2 7 3
    let s (flags : Byte) (n : Byte) := rolling false (rollBody 2 flags 1 (entryOf n)) t running
    (s 0 5).rollIn = [⟨0, .west, false⟩] ++ (⟨0, .east, false⟩ : RollIn) :: [] ∧
      (∀ x ∈ [(⟨0, .west, false⟩ : RollIn)], x.port ≠ .east ∨ x.own = true) ∧
      rollTurned ((s 0x80 5).buffer 0).body = true ∧ rollTurned ((s 0 5).buffer 0).body = false ∧
      rollCount ((s 0 5).buffer 0).body = 1 ∧ 18 + 4 * 1 ≤ ((s 0 5).buffer 0).body.length ∧
      (∃ e ∈ rollEntries ((s 0 1).buffer 0).body, e.number = (1 : Byte)) ∧
      (¬ ∃ e ∈ rollEntries ((s 0 5).buffer 0).body, e.number = (1 : Byte)) ∧
      (s 0 5).pool.wf = true ∧ (s 0 5).pool.get? 0 = some ((s 0 5).buffer 0) ∧ 1 ≤ (s 0 5).free ∧
      (s 0 5).isDown .west = false ∧ ((s 0 5).setPort .west {}).isDown .west = true ∧
      (s 0 5).isDown .east = false ∧ ((s 0 5).eg .west).urgent.length < 32 := by decide +kernel

/-- A list of 62 entries fits its body and is full; one of 63 does not fit (R153). -/
theorem test_full_rolls_met :
    let body (n : Nat) : List Byte :=
      zeros 14 ++ [2, 7, 0, BitVec.ofNat 8 n] ++ (List.range n).flatMap fun i => entryOf (BitVec.ofNat 8 (i + 2))
    (rollCount (body 62) = 62 ∧ 18 + 4 * 62 ≤ (body 62).length) ∧ ¬ rollCount (body 63) ≤ 62 ∧
      (¬ ∃ e ∈ rollEntries (body 62), e.number = (1 : Byte)) ∧ rollFull (body 62) = false := by decide +kernel

/-- R91, R191: a body of 54 bytes is padded to 60 when it is passed (log 25). -/
theorem test_short_roll_padded :
    let s := rolling false (zeros 14 ++ [2, 7, 0, 0] ++ zeros 36) (trailerOf 2 2 7 3) running
    (match exec (.peerRoll .east) s with
      | .next t => (t.buffer 1).body.length == 60 && rollCount (t.buffer 1).body == 1
      | _ => false) = true := by decide +kernel

/-- R153, R193: this node's entry joins the end of the list. -/
theorem test_append_entry :
    (rollEntries (appendEntry (ownEntry running) (rollBody 2 0 1 (entryOf 5)))).map RollEntry.number = [5, 1] ∧
      rollCount (appendEntry (ownEntry running) (rollBody 2 0 1 (entryOf 5))) = 2 := by decide +kernel

theorem test_own_rolls_met :
    let t := trailerOf 1 2 7 3
    let s (flags : Byte) := rolling true (rollBody 1 flags 1 (entryOf 5)) t { round .unresolved with rollIn := [] }
    let last := rolling true (rollBody 1 0x80 1 (entryOf 5)) { t with lane := .e } { round .turned with rollIn := [] }
    (∀ x ∈ [(⟨0, .west, true⟩ : RollIn)], x.port ≠ .east ∨ x.own = false) ∧ (s 0).roll.again = false ∧
      (s 0).roll.running = true ∧ ((s 0).buffer 0).trailer.epoch = (s 0).loader.ownEpoch ∧
      ((s 0).buffer 0).trailer.seq.setWidth 8 = (s 0).roll.number ∧
      (rollCount ((s 0).buffer 0).body = 1 ∧ 18 + 4 * 1 ≤ ((s 0).buffer 0).body.length) ∧
      ((s 0).roll.lanes.get .w).result = .unresolved ∧ rollTurned ((s 0).buffer 0).body = false ∧
      RingPort.east = Lane.w.ownPort.opposite ∧ rollTurned ((s 0x80).buffer 0).body = true ∧
      ((s 0).roll.lanes.get .e).result = .unresolved ∧
      (RingPort.east = Lane.e.ownPort ∧ (last.buffer 0).trailer.lane = .e ∧
        (last.roll.lanes.get .e).result = .unresolved ∧ (last.roll.lanes.get .w).result ≠ .unresolved) ∧
      (s 0).clock.due (s 0).roll.timeout = true := by decide +kernel

/-- R161: with the again flag set the timeout ends the round and starts the next one. -/
theorem test_again_met :
    let s := { round .turned with roll := { (round .turned).roll with again := true } }
    s.roll.running = true ∧ s.clock.due s.roll.timeout = true ∧ s.roll.again = true ∧
      (match exec .rollTimeoutExpiry s with
      | .next t => t.roll.running && t.roll.number == 8 && t.roll.cause == .again && !t.roll.again
      | _ => false) = true := by decide +kernel

/-- R160, R161, R186: lengths of the notice list at each bound, and a round that ends with both ring ports DOWN. -/
theorem test_round_notices_met :
    let n : Notice := .begins 7 .command .sent .sent
    let s (k : Nat) := { round .unresolved with report := { notices := List.replicate k n } }
    let down := State.without .west (State.without .east (s 1))
    (s 3).report.notices.length < 4 ∧ 4 ≤ (s 4).report.notices.length ∧ (s 2).report.notices.length < 3 ∧
      (s 3).loader.nodeState ≠ .reset ∧ (s 3).isDown .east = false ∧
      down.isDown .east = true ∧ down.isDown .west = true ∧ down.report.notices.length < 2 ∧
      down.roll.running = true ∧ down.clock.due down.roll.timeout = true := by decide +kernel

/-! ## Chapter 9 -/

/-- A node in LOADING, in this phase, with this many image reads made. -/
def loading (phase : LoadPhase) (attempts : Nat) (strap : BitVec 6) : State :=
  { State.reset with
    loader := {
      nodeState := .loading
      phase := phase
      attempts := attempts
      strap := strap
      pollTimer := some ⟨0xFFFFFC18, 1000⟩
      draft := some ⟨{ nodeNumber := 1 }, [], .running⟩ } }

/-- The shortest image: profile 0, node number `node`, no tables. -/
def shortImage (node : Byte) : List Byte :=
  let fixed : List Byte := [0xE6, 0xB3, 1, 0, 0, 44, node] ++ zeros 27 ++ [1] ++ zeros 7
  fixed ++ beBytes 2 (crc16 fixed).toNat

theorem test_image_met :
    (loading .image 2 62).loader.nodeState = .loading ∧ (loading .image 2 62).loader.phase = .image ∧
      (loading .image 1 62).loader.attempts < 2 ∧ 2 ≤ (loading .image 2 62).loader.attempts ∧
      (loading .image 2 63).loader.strap = 63 ∧
      fieldAt (shortImage 62) 0 2 = 0xE6B3 ∧ byteAt (shortImage 62) 2 = 1 ∧ fieldAt (shortImage 62) 4 2 = 44 ∧
      (shortImage 62).length = 44 ∧
      (crc16 ((shortImage 62).take 42)).toNat = fieldAt (shortImage 62) 42 2 ∧
      attemptResult (.bytes (shortImage 62)) = (.good, shortImage 62) ∧
      attemptResult (.bytes (shortImage 63)) = (.good, shortImage 63) ∧ (attemptResult (.failed .sdaLow)).1 ≠ .good := by
  decide +kernel

/-- The shortest image with one class map entry more than it has room for. -/
def overfullImage : List Byte :=
  let fixed : List Byte := [0xE6, 0xB3, 1, 0, 0, 44, 1] ++ zeros 27 ++ [1] ++ zeros 4 ++ [1, 0, 0]
  fixed ++ beBytes 2 (crc16 fixed).toNat

theorem test_image_faults_met :
    (attemptResult (.bytes (0xE6 :: 0xB4 :: zeros 6))).1 = .badMagic ∧
      (attemptResult (.bytes [0xE6, 0xB3, 2, 0, 0, 44, 1, 0])).1 = .badFormat ∧
      (attemptResult (.bytes [0xE6, 0xB3, 1, 0, 0, 31, 1, 0])).1 = .badLength ∧
      (attemptResult (.bytes [0xE6, 0xB3, 1, 0, 7, 0xD1, 1, 0])).1 = .badLength ∧
      (attemptResult (.bytes ((shortImage 62).set 43 0xEE))).1 = .badCrc ∧
      (attemptResult (.bytes overfullImage)).1 = .badLayout := by decide +kernel

/-- R171: a header that fails is left at its last byte; a good image of 44 bytes is read to its end; a missing
acknowledge of the last address byte is followed by the stop. -/
theorem test_image_endings :
    imageOps (.bytes (0xE6 :: 0xB4 :: zeros 6)) = readAddressing 0 0 ++ [.read 8 false, .stop] ∧
      imageOps (.bytes (shortImage 62)) = readAddressing 0 0 ++ [.read 8 true, .read 36 false, .stop] ∧
      imageOps (.failed (.noAck 2)) = [.start, .send 0xAE, .send 0, .send 0, .stop] := by decide +kernel

/-- The tables' part of a good image, its check sequence left out: 9 class map entries, a watch entry and a group
control address. -/
def fullerImage : List Byte :=
  [0xE6, 0xB3, 1, 7, 0, 82, 1, 1, 0, 1, 0] ++ zeros 14 ++ [1, 2, 3, 4, 5, 6] ++ zeros 3 ++ [1] ++ zeros 4 ++
    [9, 0, 1] ++ (List.replicate 9 [0x88, 0xBA, 3]).flatten ++ [2, 3, 0, 0, 0, 0, 0, 0, 17, 1, 1] ++ zeros 2

/-- R173 to R175: the override 0 of P becomes 1, eight of the nine class entries are placed with the code 3 as URGENT, a
watch interval of 0 and an N of 17 are clamped, and the group address gives way to the node's own. -/
theorem test_good_image :
    let l := goodDraft fullerImage 62 {}
    l.clampCount = 11 ∧ l.warnings.badProfile = true ∧ l.warnings.extraEntries = true ∧
      l.draft.map (fun d => d.settings.profile.checkPeriod) = some 1 ∧
      l.draft.map (fun d => d.settings.control) = some 0x020000000001#48 ∧
      l.draft.map (fun d => d.settings.classMap) = some (List.replicate 8 (0x88BA#16, .urgent)) ∧
      l.draft.map (fun d => d.watch.map WatchConfig.allowN) = some [16] ∧
      l.draft.map (fun d => d.watch.map WatchConfig.cls) = some [.bulk] := by decide +kernel

theorem test_epoch_met :
    (loading (.epochRead 1) 1 5).loader.phase = .epochRead 1 ∧ (1 < 2 ∧ 2 ≤ 2) ∧
      (loading .epochWrite 1 5).loader.phase = .epochWrite ∧
      (loading .epochPoll 1 5).loader.phase = .epochPoll ∧
      (loading .epochPoll 1 5).loader.draft = some ⟨{ nodeNumber := 1 }, [], .running⟩ ∧
      (loading .epochPoll 1 5).clock.due (loading .epochPoll 1 5).loader.pollTimer = true ∧
      State.reset.clock.due (some ⟨0xFFFFFC19, 1000⟩) = false := by decide

/-- A member, number 1 and the time source, at the end of LOADING with `n` buffers in use, and `queued` entries on the
URGENT queue of its West port, which alone is not DOWN. -/
def ending (n queued : Nat) (timeSource : BitVec 6) : State :=
  { (loading .epochPoll 1 5).setPort .west unit with
    pool := poolOf n
    egress := ⟨{}, { urgent := List.replicate queued (entry .forwarded) }, {}⟩
    loader := { (loading .epochPoll 1 5).loader with
      draft := some ⟨{ nodeNumber := 1, timeSource := timeSource }, [], .running⟩ } }

theorem test_first_frames_met :
    (ending 254 30 1).loader.nodeState = .loading ∧ (ending 254 30 1).loader.phase = .epochPoll ∧
      (ending 254 30 1).loader.draft = some ⟨{ nodeNumber := 1, timeSource := 1 }, [], .running⟩ ∧
      (ending 255 31 0).loader.draft = some ⟨{ nodeNumber := 1, timeSource := 0 }, [], .running⟩ ∧
      ((ending 256 0 1).isDown .east = true ∧ (ending 256 0 1).isDown .west = false ∧ (ending 256 0 1).free = 0) ∧
      ((ending 255 31 1).free = 1 ∧ (ending 255 31 1).pool.wf = true ∧
        ((ending 255 31 1).eg RingPort.west.port).urgent.length + 1 ≤ 32) ∧
      ((ending 254 30 1).free = 2 ∧ (ending 254 30 1).pool.wf = true ∧
        ((ending 254 30 1).eg RingPort.west.port).urgent.length + 2 ≤ 32) ∧
      ((loading .epochPoll 1 5).isDown .east = true ∧ (loading .epochPoll 1 5).isDown .west = true) := by decide +kernel

theorem test_loader_law_met :
    running.loader.nodeState ≠ .reset ∧ running.loader.nodeState ≠ .loading ∧ (inState .transit).OutLaw ∧
      (loading (.epochRead 2) 3 5).LoaderLaw ∧ ∃ t, step running = .next t := by
  refine ⟨by decide, by decide, fun _ => ⟨rfl, rfl, rfl, rfl, rfl, rfl, rfl, ?_, fun h => absurd rfl h⟩, ?_, _, rfl⟩
  · intro c h; simp [inState, running] at h
  · refine ⟨fun c h => by simp [loading] at h, fun d h => ?_, by decide, by decide, by decide, by decide, ?_, by decide⟩
    · simp only [loading, Option.some.injEq] at h
      subst h
      unfold Draft.Law Settings.Law Profile.Law
      refine ⟨by decide, by decide, fun c h => by simp at h, by decide⟩
    · intro f h
      simp only [loading, LoadPhase.epochRead.injEq] at h
      omega

/-! ## Chapter 10 -/

/-- The running node with a frame handed to the report unit while `n` commands are queued. -/
def told (bytes : List Byte) (n : Nat) : State :=
  { running with
    pool := { bufs := [(0, ⟨1, bytes, true⟩)] }
    commandIn := [0]
    report := { queue := List.replicate n { code := 1, page := 0, source := 0 } } }

theorem test_node_commands_met :
    (told controlFrame 1).commandIn = [0] ∧ typeField ((told controlFrame 1).buffer 0).bytes = 0xB7C2 ∧
      (told controlFrame 1).report.queue.length < 2 ∧ 2 ≤ (told controlFrame 2).report.queue.length ∧
      typeField ((told intact64 0).buffer 0).bytes ≠ (told intact64 0).cfg.controlType ∧
      ((inState .transit).loader.nodeState = .transit ∧ byteAt controlFrame (typeOffset controlFrame + 2) ≠ 5) := by
  decide +kernel

/-- R183: a RESTART at the head whose result is fixed and whose reply waits. -/
def unanswered : State :=
  { running with report := { queue := [{ code := 5, page := 0, source := 0x020000000001, result := some .done }] } }

theorem test_answers_met :
    (commanded 1).report.queue = [{ code := 1, page := 9, source := 0 }] ∧ unanswered.pool.wf = true ∧
      unanswered.report.queue = [{ code := 5, page := 0, source := 0x020000000001, result := some .done }] ∧
      ({ unanswered with pool := poolOf 207 } : State).free = 49 ∧
      ({ unanswered with pool := poolOf 208 } : State).free < 49 ∧ (poolOf 207).wf = true ∧
      unanswered.isDown .tap = false ∧ (unanswered.eg .tap).bulk.length < 96 ∧
      (State.without .tap unanswered).isDown .tap = true ∧
      (9 : Byte).toNat ≤ 9 ∧ 10 ≤ (10 : Byte).toNat ∧ 6 ≤ (6 : Byte).toNat ∧
      (commanded 4).report.queue = [{ code := 4, page := 9, source := 0 }] := by decide +kernel

theorem test_report_timers_met :
    let s (r : ReportUnit) : State := { running with pool := poolOf 207, report := r }
    let n : Notice := .ends 7 .opened (some 1) (some 5)
    let held := s { unanswered.report with hold := some ⟨9000, 1000⟩ }
    (held.clock.due held.report.hold = true ∧ held.report.queue = unanswered.report.queue ∧ held.free = 49 ∧
      held.report.restartDue = false ∧ ({ held with pool := poolOf 208 } : State).free < 49) ∧ (s {}).member = true ∧ (s {}).report.restartDue = false ∧ (s {}).pool.wf = true ∧ (s {}).free = 49 ∧
      (s { notices := [n] }).report.notices = [n] ∧ (s { changes := [.roll] }).report.changes ≠ [] ∧
      (s { changes := [.roll] }).report.notices = [] ∧ (s { periodDue := true }).report.hold = none ∧
      (inState .transit).member = false ∧ (s { hold := some ⟨9001, 1000⟩ }).report.hold ≠ none ∧
      ({ running with pool := poolOf 208 } : State).free < 49 ∧
      (s {}).isDown .tap = false ∧ ((s {}).eg .tap).bulk.length < 96 ∧
      (s { period := some ⟨0, 10000⟩ }).clock.due (some ⟨0, 10000⟩) = true ∧
      (s { period := some ⟨1, 10000⟩ }).clock.due (some ⟨1, 10000⟩) = false ∧
      (s { hold := some ⟨9000, 1000⟩ }).clock.due (some ⟨9000, 1000⟩) = true ∧
      (s { hold := some ⟨9001, 1000⟩ }).clock.due (some ⟨9001, 1000⟩) = false := by decide +kernel

/-- R195: a ROLL END report's destination, control type and body. -/
theorem test_notice_frame :
    let f := noticeContent (.ends 7 .opened (some 1) (some 5)) running
    f.take 6 = [0x03, 0xB7, 0x00, 0x00, 0x00, 0x10] ∧ (f.drop 14).take 1 = [0x83] ∧
      (f.drop 19).take 1 = [7] ∧ f.drop 21 = [1, 5] := by decide +kernel

theorem test_lines_met : ∃ t, exec .clashHoldExpiry running = .next t := ⟨_, rfl⟩

/-- R189: HEALTHY in RUNNING with the ring CLOSED and both ring ports UP; a DEGRADED ring port takes it away. -/
theorem test_healthy :
    closedRing.healthyLevel = true ∧ (closedRing.setPort .east { unit with state := .degraded }).healthyLevel = false := by
  decide +kernel

end Sys2Proof.Tests
end

section
/-! ## What a port and its egress scheduler keep (R2, R3, R10, R12, R15, R102) -/

namespace Sys2Proof.Machine

/-- The ports' law and the law of the window counts, read at one port unit `u` and its egress scheduler `e`. -/
structure PortSafe (u : PortUnit) (e : Egress) : Prop where
  quiet : u.state = .down →
    u.rx = .idle ∧ u.window = none ∧ u.errors = 0 ∧ u.good = 0 ∧ u.flags = {} ∧ u.ind = {} ∧
      e.urgent = [] ∧ e.stream = [] ∧ e.bulk = [] ∧ e.tx = .free
  running : u.state ≠ .down → u.window.isSome = true ∧ u.qual = none
  counts : u.errors ≤ 65535 ∧ u.good ≤ 65535

/-- Every port is safe. -/
def State.PortsSafe (s : State) : Prop := ∀ p, PortSafe (s.port p) (s.eg p)

theorem portsSafe_iff (s : State) : s.PortsSafe ↔ s.PortLaw ∧ s.WindowLaw := by
  constructor
  · intro h
    exact ⟨fun p => ⟨fun hd => (h p).quiet (State.down hd), fun hd => (h p).running (State.not_down hd)⟩,
      fun p => (h p).counts⟩
  · rintro ⟨hl, hw⟩ p
    obtain ⟨hq, hr⟩ := hl p
    exact ⟨fun hd => hq (by simp [State.isDown, hd]), fun hd => hr (by simpa [State.isDown] using hd), hw p⟩

theorem State.PortsSafe.congr {s t : State} (hp : t.ports = s.ports) (he : t.egress = s.egress)
    (h : s.PortsSafe) : t.PortsSafe := by
  intro p
  simpa only [State.port, State.eg, hp, he] using h p

theorem State.PortsSafe.update {s t : State} {p : Port} (h : s.PortsSafe) (hp : PortSafe (t.port p) (t.eg p))
    (hq : ∀ q, q ≠ p → t.port q = s.port q ∧ t.eg q = s.eg q) : t.PortsSafe := by
  intro q
  by_cases hqp : q = p
  · subst hqp; exact hp
  · obtain ⟨hu, he⟩ := hq q hqp
    rw [hu, he]
    exact h q

theorem State.PortsSafe.setPort {s : State} {p : Port} {u : PortUnit} (h : s.PortsSafe)
    (hu : PortSafe u (s.eg p)) : (s.setPort p u).PortsSafe :=
  h.update (p := p) (by simpa [State.eg] using hu) fun q hq => by simp [State.eg, hq]

theorem State.PortsSafe.setEg {s : State} {p : Port} {e : Egress} (h : s.PortsSafe)
    (he : PortSafe (s.port p) e) : (s.setEg p e).PortsSafe :=
  h.update (p := p) (by simpa [State.port] using he) fun q hq => by simp [State.port, hq]

/-- A change of counters, or of the receiver of a port that is not DOWN, keeps a port safe. -/
theorem PortSafe.receives {u : PortUnit} {e : Egress} (h : PortSafe u e) (hd : u.state ≠ .down) (r : Receiver)
    (k : PortCounters) : PortSafe { u with rx := r, counters := k } e :=
  ⟨fun hc => absurd hc hd, h.running, h.counts⟩

theorem PortSafe.not_down {u : PortUnit} {e : Egress} (h : PortSafe u e) (hr : u.rx ≠ .idle) : u.state ≠ .down :=
  fun hd => hr (h.quiet hd).1

theorem PortSafe.sends {u : PortUnit} {e : Egress} (h : PortSafe u e) (ht : e.tx ≠ .free) : u.state ≠ .down := by
  intro hd
  obtain ⟨-, -, -, -, -, -, -, -, -, hfree⟩ := h.quiet hd
  exact ht hfree

/-- The egress scheduler of a port that is not DOWN may change in any way. -/
theorem PortSafe.egress {u : PortUnit} {e f : Egress} (h : PortSafe u e) (hd : u.state ≠ .down) : PortSafe u f :=
  ⟨fun hc => absurd hc hd, h.running, h.counts⟩

theorem PortSafe.portStep {p : Port} {u v : PortUnit} {e : Egress} (hs : PortStep p u v) (h : PortSafe u e) :
    PortSafe v e := by
  cases hs with
  | counters k => exact ⟨h.quiet, h.running, h.counts⟩
  | mark i f hd => exact ⟨fun hc => absurd hc hd, h.running, h.counts⟩
  | start r hd hi hr => exact h.receives hd r u.counters
  | qual q hd => exact ⟨h.quiet, fun hc => absurd hd hc, h.counts⟩
  | up w hd => exact ⟨nofun, fun _ => ⟨rfl, rfl⟩, by simp [PortUnit.enterUp]⟩
  | window b f n hd hw =>
    refine ⟨fun hc => ?_, fun _ => ⟨?_, (h.running hd).2⟩, by simp [PortUnit.judgeWindow]⟩
    · simp only [PortUnit.judgeWindow] at hc
      split at hc <;> simp at hc
    · simpa [PortUnit.judgeWindow, rearmed] using hw

/-- A queue of a DOWN port takes no entry, and its transmitter stays free. -/
theorem PortSafe.egressStep {u : PortUnit} {e f : Egress} {down : Bool} (hdown : down = (u.state == .down))
    (hs : EgressStep down e f) (h : PortSafe u e) : PortSafe u f := by
  by_cases hd : u.state = .down
  · obtain ⟨hrx, hw, he, hg, hf, hi, hu, hst, hb, ht⟩ := h.quiet hd
    have hdt : down = true := by simp [hdown, hd]
    have hq : ∀ c, e.queue c = [] → f.queue c = [] := by
      intro c hc
      obtain hsub | ⟨hn, -⟩ := hs.queue c
      · exact List.eq_nil_of_sublist_nil (hc ▸ hsub)
      · simp [hdt] at hn
    have hft : f.tx = .free := by
      obtain hsame | ⟨hn, -⟩ := hs.tx
      · rw [hsame, ht]
      · simp [hdt, ht] at hn
    exact ⟨fun _ => ⟨hrx, hw, he, hg, hf, hi, hq .urgent hu, hq .stream hst, hq .bulk hb, hft⟩,
      fun hc => absurd hd hc, h.counts⟩
  · exact h.egress hd

/-- A port that has fallen is quiet, whatever it was (R3, R102). -/
theorem PortSafe.fallen (u : PortUnit) (c : Bool) (k : EgressCounters) :
    PortSafe u.enterDown { urgent := [], stream := [], bulk := [], tx := .free, chosen := c, counters := k } :=
  ⟨fun _ => ⟨rfl, rfl, rfl, rfl, rfl, rfl, rfl, rfl, rfl, rfl⟩, fun hc => absurd rfl hc,
    by simp [PortUnit.enterDown]⟩

theorem PortSafe.started (q : Option Timer) : PortSafe { qual := q } {} :=
  ⟨fun _ => ⟨rfl, rfl, rfl, rfl, rfl, rfl, rfl, rfl, rfl, rfl⟩, fun hc => absurd rfl hc, by simp⟩

theorem PortSafe.zeroed {u : PortUnit} {e : Egress} (h : PortSafe u e) : PortSafe u.zeroed e.zeroed :=
  ⟨h.quiet, h.running, h.counts⟩

theorem port_zeroCounters (p : Port) (s : State) : (zeroCounters s).port p = (s.port p).zeroed := by cases p <;> rfl

theorem eg_zeroCounters (p : Port) (s : State) : (zeroCounters s).eg p = (s.eg p).zeroed := by cases p <;> rfl

theorem dropReception_port (p q : Port) (s : State) : (dropReception p s).port q = s.port q := by
  rw [dropReception_eq]; rfl

theorem dropReception_eg (p q : Port) (s : State) : (dropReception p s).eg q = s.eg q := by
  rw [dropReception_eq]; rfl

/-- An outcome counted at a port that was receiving leaves it safe: the window counts stop at 65535 (R12). -/
theorem PortSafe.outcome {u : PortUnit} {e : Egress} (h : PortSafe u e) (hr : u.rx ≠ .idle) (o : FrameOutcome) :
    PortSafe { u with
      rx := .idle
      errors := if o = .intact then u.errors else min 65535 (u.errors + 1)
      good := if o = .intact then min 65535 (u.good + 1) else u.good
      counters := u.counters.outcome o } e := by
  obtain ⟨he, hg⟩ := h.counts
  refine ⟨fun hc => absurd hc (h.not_down hr), h.running, ?_⟩
  dsimp only
  split <;> omega

theorem State.PortsSafe.countOutcome {s : State} {p : Port} (h : s.PortsSafe) (hr : (s.port p).rx ≠ .idle)
    (o : FrameOutcome) : (countOutcome p o s).PortsSafe := h.setPort ((h p).outcome hr o)

theorem State.PortsSafe.dropReception {s : State} (h : s.PortsSafe) (p : Port) : (dropReception p s).PortsSafe := by
  rw [dropReception_eq]
  exact h.congr rfl rfl

theorem State.PortsSafe.start (s : State) (c : StartCause) : (takeStart c s).PortsSafe := by
  have hports : ∀ p, ∃ l, (takeStart c s).port p = { qual := l } ∧ (takeStart c s).eg p = {} := by
    intro p
    unfold takeStart
    cases c <;> cases s.pins.rst <;> cases p <;> exact ⟨_, rfl, rfl⟩
  intro p
  obtain ⟨l, hu, he⟩ := hports p
  rw [hu, he]
  exact .started l

theorem State.PortsSafe.startRepeat {s : State} (h : s.PortsSafe) (out : RingPort) :
    (startRepeat out s).PortsSafe := by
  unfold Machine.startRepeat
  split
  · exact h
  · split
    · rename_i hm
      simp only [State.mayRepeat, Bool.and_eq_true, Bool.not_eq_true'] at hm
      exact (h.congr (t := s.setDir _ _) rfl rfl).setEg ((h out.port).egress (State.not_down hm.1))
    · exact h

/-- The updates that commands are made of keep every port safe. -/
theorem portsSafe_kept : Kept State.PortsSafe where
  egress := fun s p e he h => h.setEg ((h p).egressStep rfl he)
  port := fun s p u hu h => h.setPort ((h p).portStep hu)
  startRepeat := fun s out h => h.startRepeat out
  repeatDone := fun s out f b d ht h => by
    have hd := (h out.port).sends (by simp [ht])
    exact (h.congr (t := freeStore _ _ _) rfl rfl).setEg ((h out.port).egress hd)
  repeatTake := fun s p f _ hi hd h =>
    (h.congr (t := s.setDir _ _) rfl rfl).setPort
      ((h p.port).receives (State.not_down hd) (.repeating f) (s.port p.port).counters)
  giant := fun s p h => by
    refine (h.dropReception p).setPort ?_
    rw [dropReception_port, dropReception_eg]
    by_cases hi : (s.port p).rx = .idle
    · have hmark : (s.port p).rx.markGiant = (s.port p).rx := by rw [hi]; rfl
      rw [hmark]
      exact h p
    · exact (h p).receives ((h p).not_down hi) _ (s.port p).counters
  endError := fun s p o hr h => (h.dropReception p).countOutcome (by rwa [dropReception_port]) o
  endIntact := fun s p hr _ h => h.countOutcome hr .intact
  repeatLoses := fun s p f hr h => (h.countOutcome (p := p.port) (by simp [hr]) .intact).congr rfl rfl
  repeatJoins := fun s p f b hr h => (h.countOutcome (p := p.port) (by simp [hr]) .intact).congr rfl rfl
  fallen := fun s p _ h => by
    rw [fallen_eq]
    refine h.update (p := p) ?_ fun q hq => by simp [State.port, State.eg, hq]
    simpa [State.port, State.eg] using PortSafe.fallen ..
  zero := fun s h p => by rw [port_zeroCounters, eg_zeroCounters]; exact (h p).zeroed
  start := fun s c _ => .start s c
  enter := fun s st _ h => h.congr rfl rfl
  begins := fun s ph _ _ _ h => h.congr rfl rfl
  retry := fun s st ops _ _ h => h.congr rfl rfl
  decides := fun s l d _ _ _ h => h.congr rfl rfl
  transit := fun s l d _ _ _ h => h.congr rfl rfl
  fix := fun s d _ _ h => h.congr rfl rfl

end Sys2Proof.Machine

open Sys2Proof Sys2Proof.Machine

/-- Settles O37: a DOWN port is quiet and every other port's window runs, as an invariant of the updates that commands
are made of. -/
theorem downPortsStayQuiet : Obligations.DownPortsStayQuiet := by
  intro s t hp hw hstep
  obtain ⟨u, hu, hsafe⟩ := portsSafe_kept.step (fun _ _ h => h) (fun _ h => h) ((portsSafe_iff s).mpr ⟨hp, hw⟩)
  rw [hstep] at hu
  cases hu
  exact (portsSafe_iff t).mp hsafe
end

section
/-! ## Links (R1, R2, R3, R10, R102): what a fall, a rise and the qualification do -/

namespace Sys2Proof.Machine

/-! ### Which egress schedulers a shared operation leaves -/

theorem SameBut.isDown {s t : State} (h : SameBut s t) (p : Port) : t.isDown p = s.isDown p := by
  simp only [State.isDown, State.port, h.ports]

theorem entryEnded_egress (m : Mark) (s : State) : (entryEnded m s).egress = s.egress := by rw [entryEnded_eq]

theorem note_egress (i : Item) (s : State) : (note i s).egress = s.egress := by
  obtain h | ⟨-, -, h⟩ | ⟨-, -, h⟩ := note_cases i s <;> rw [h]

theorem noteIf_egress (c : Bool) (i : Item) (s : State) : (noteIf c i s).egress = s.egress := by
  cases c
  · rfl
  · exact note_egress i s

theorem addNotice_egress (n : Notice) (s : State) : (addNotice n s).egress = s.egress := by
  unfold addNotice
  split <;> rfl

/-- A request to enqueue concerns the scheduler of its own port alone. -/
theorem enqueue_eg_of_ne {p q : Port} (hq : q ≠ p) (c : Class) (b : Nat) (m : Mark) (s : State) :
    (enqueue p c b m s).eg q = s.eg q := by
  obtain ⟨-, h⟩ | ⟨-, -, h⟩ | ⟨-, -, h⟩ := enqueue_cases p c b m s <;>
    simp [h, State.eg, entryEnded_egress, State.countEg, State.setEg, hq]

/-- A generator's entries join no scheduler of a ring port that it does not send on. -/
theorem enqueueRing_eg {q : Port} {east west : Bool} (he : q = .east → east = false) (hw : q = .west → west = false)
    (c : Class) (b : Nat) (m : Mark) (s : State) : (enqueueRing east west c b m s).eg q = s.eg q := by
  have heast : ∀ t : State, (if east then enqueue .east c b m t else t).eg q = t.eg q := by
    intro t
    split
    · exact enqueue_eg_of_ne (fun h => by simp_all) c b m t
    · rfl
  have hwest : ∀ t : State, (if west then enqueue .west c b m t else t).eg q = t.eg q := by
    intro t
    split
    · exact enqueue_eg_of_ne (fun h => by simp_all) c b m t
    · rfl
  exact (hwest _).trans (heast s)

theorem composeLocal_eg {q : Port} (hq : q ≠ .tap) (c : State → List Byte) (r : Bool) {done : State → State}
    (hd : ∀ t, (done t).eg q = t.eg q) (s : State) : (composeLocal c r done s).eg q = s.eg q := by
  unfold composeLocal
  obtain ⟨-, h⟩ | ⟨-, h⟩ := generatorTake_cases .bulk s <;> rw [h]
  · exact (hd _).trans (enqueue_eg_of_ne hq ..)
  · rfl

/-- The report unit sends on the tap port alone (R183, R186). -/
theorem reportService_eg {q : Port} (hq : q ≠ .tap) (s : State) : (reportService s).eg q = s.eg q := by
  unfold reportService composeWaiting
  split
  · split
    · exact composeLocal_eg hq _ _ (done := fun t => reportMade (noticeReported t)) (fun _ => rfl) s
    · split
      · exact composeLocal_eg hq _ _ (done := fun t => reportMade (listReported t)) (fun _ => rfl) s
      · rfl
  · rfl

section DownPort
variable {q : Port} {s : State}

/-- A round of roll call sends nothing on a DOWN port (R151, R152). -/
theorem sendRoll_eg_of_down (hq : s.isDown q = true) : (sendRoll s).2.eg q = s.eg q := by
  unfold sendRoll
  obtain ⟨-, h⟩ | ⟨-, h⟩ := generatorTake_cases .urgent s <;> rw [h]
  · have hq' : ({ s with pool := s.pool.take.2 } : State).isDown q = true := hq
    refine (enqueueRing_eg ?_ ?_ ..).trans rfl <;> rintro rfl <;> simp [hq']
  · rfl

theorem beginRound_eg_of_down (c : RollCause) (hq : s.isDown q = true) : (beginRound c s).eg q = s.eg q := by
  have hopen : (openRound c s).isDown q = true := hq
  unfold beginRound State.eg
  dsimp only
  rw [note_egress, addNotice_egress]
  split
  · rfl
  · exact sendRoll_eg_of_down hopen

theorem closeRound_egress (t : State) : (closeRound t).egress = t.egress := by
  unfold closeRound
  dsimp only
  rw [note_egress, addNotice_egress]

theorem startLastRound_eg_of_down (c : RollCause) (hq : s.isDown q = true) : (startLastRound c s).eg q = s.eg q := by
  unfold startLastRound
  dsimp only
  split
  · exact (congrArg (·.get q) (closeRound_egress _)).trans (beginRound_eg_of_down c hq)
  · exact beginRound_eg_of_down c hq

theorem endRound_eg_of_down (hq : s.isDown q = true) : (endRound s).eg q = s.eg q := by
  have hclose := closeRound_egress { s with roll := { s.roll with again := false } }
  unfold endRound
  dsimp only
  split
  · refine (startLastRound_eg_of_down .again ?_).trans (congrArg (·.get q) hclose)
    exact ((SameBut.closeRound _).isDown q).trans hq
  · exact congrArg (·.get q) hclose

theorem startRound_eg_of_down (c : RollCause) (hq : s.isDown q = true) : (startRound c s).eg q = s.eg q := by
  unfold startRound
  dsimp only
  split
  · exact (endRound_eg_of_down (((SameBut.beginRound c s).isDown q).trans hq)).trans (beginRound_eg_of_down c hq)
  · exact beginRound_eg_of_down c hq

theorem ringChanged_eg_of_down (hq : s.isDown q = true) (hr : q ≠ .tap) : (ringChanged s).eg q = s.eg q := by
  have hnote : (note .ring s).eg q = s.eg q := congrArg (·.get q) (note_egress .ring s)
  unfold ringChanged autoTrigger
  dsimp only
  split
  · refine Eq.trans ?_ ((reportService_eg hr _).trans hnote)
    split
    · rfl
    · exact startRound_eg_of_down .auto ((((SameBut.note .ring s).trans (.reportService _)).isDown q).trans hq)
  · exact hnote

/-- Telling of changed lanes leaves the scheduler of a DOWN ring port, and every scheduler where the ring state
stays. -/
theorem tellLanes_eg {old : RingCheck} (h : s.check.ring = old.ring ∨ (s.isDown q = true ∧ q ≠ .tap)) :
    (tellLanes old s).eg q = s.eg q := by
  have hsame := (SameBut.noteIf (s.check.lanes.e.state != old.lanes.e.state) (.lane .e) s).trans
    (.noteIf (s.check.lanes.w.state != old.lanes.w.state) (.lane .w) _)
  unfold tellLanes
  dsimp only
  split
  · simp only [State.eg, noteIf_egress]
  · rename_i hr
    obtain ⟨hd, hq⟩ := h.resolve_left hr
    rw [ringChanged_eg_of_down ((hsame.isDown q).trans hd) hq]
    simp only [State.eg, noteIf_egress]

end DownPort

/-! ### The fall -/

theorem Egress.held_length (e : Egress) :
    e.held.length = e.tx.held.length + e.urgent.length + e.stream.length + e.bulk.length := by
  simp [Egress.held, add_assoc]

theorem fallen_isDown (p : Port) (s : State) : (fallen p s).isDown p = true := by
  rw [fallen_eq]
  simp [State.isDown, State.port, PortUnit.enterDown]

theorem fallen_check_tap (s : State) : (fallen .tap s).check = s.check := by rw [fallen_eq]; rfl

/-- A port's fall with its notes: what it does to the units by themselves is `fallen`. -/
theorem portFalls_sameBut (p : Port) (s : State) : SameBut (fallen p s) (portFalls p s) :=
  (SameBut.note (.port p) _).trans (.tellLanes s.check _)

/-- What follows the fall of a port leaves its flushed egress scheduler: the report unit sends on the tap port alone,
which no fall of a ring port concerns, and a round of roll call sends nothing on a DOWN port. -/
theorem portFalls_eg (p : Port) (s : State) : (portFalls p s).eg p = (fallen p s).eg p := by
  have hsame := SameBut.note (.port p) (fallen p s)
  unfold portFalls
  rw [tellLanes_eg]
  · exact congrArg (·.get p) (note_egress ..)
  · by_cases hp : p = .tap
    · subst hp
      exact .inl (by rw [hsame.check, fallen_check_tap])
    · exact .inr ⟨(hsame.isDown p).trans (fallen_isDown p s), hp⟩

theorem exec_linkFall {p : Port} {s : State} (hd : s.isDown p = false) :
    exec (.linkFall p) s = .next (settle (portFalls p (setLink p false s))) := by
  have hd' : (setLink p false s).isDown p = false := hd
  simp only [exec, execLinkFall, hd', finish]
  rfl

theorem exec_linkFall_of_down {p : Port} {s : State} (hd : s.isDown p = true) :
    exec (.linkFall p) s =
      .next (settle ((setLink p false s).setPort p { s.port p with qual := none })) := by
  have hd' : (setLink p false s).isDown p = true := hd
  simp only [exec, execLinkFall, hd', finish]
  rfl

end Sys2Proof.Machine

open Sys2Proof Sys2Proof.Machine

/-- Settles O7: the fall itself is read off `fallen_eq`, and what follows it leaves those parts. -/
theorem linkFallTakesThePortDown : Obligations.LinkFallTakesThePortDown := by
  intro p s hd
  have hsame := portFalls_sameBut p (setLink p false s)
  have hports : ∀ q, (portFalls p (setLink p false s)).port q = (fallen p (setLink p false s)).port q := fun q => by
    simp only [State.port, hsame.ports]
  have hfall := fallen_eq p (setLink p false s)
  obtain ⟨hpins, hclock, hloader, hhanded, hrollIn, hcommandIn, htagger, hfilter, hsources, hslots, htime⟩ :
      let t := fallen p (setLink p false s)
      t.pins = (setLink p false s).pins ∧ t.clock = s.clock ∧ t.loader = s.loader ∧ t.handed = s.handed ∧
        t.rollIn = s.rollIn ∧ t.commandIn = s.commandIn ∧ t.tagger = s.tagger ∧ t.filter = s.filter ∧
        t.sources = s.sources ∧ t.slots = s.slots ∧ t.time = s.time := by
    rw [hfall]
    exact ⟨rfl, rfl, rfl, rfl, rfl, rfl, rfl, rfl, rfl, rfl, rfl⟩
  refine ⟨_, exec_linkFall hd, hsame.pins.trans hpins, ?_, ?_, ?_, hsame.clock.trans hclock,
    hsame.loader.trans hloader, hsame.handed.trans hhanded, hsame.rollIn.trans hrollIn,
    hsame.commandIn.trans hcommandIn, hsame.tagger.trans htagger, hsame.filter.trans hfilter,
    hsame.sources.trans hsources, hsame.slots.trans hslots, hsame.time.trans htime⟩
  · rw [hports, hfall]
    exact (PerPort.get_set ..).trans (if_pos rfl)
  · intro q hq
    rw [hports, hfall]
    exact (PerPort.get_set ..).trans (if_neg hq)
  · rw [portFalls_eg, hfall, ← Egress.held_length]
    exact (PerPort.get_set ..).trans (if_pos rfl)
end

section
/-! ## Qualification and scan windows (R2, R12 to R16) -/

namespace Sys2Proof.Machine

theorem exec_linkRise_of_down {p : Port} {s : State} (hd : s.isDown p = true) :
    exec (.linkRise p) s = .next (settle ((setLink p true s).setPort p
      { s.port p with qual := some (s.clock.timer qualificationLength) })) := by
  have hd' : (setLink p true s).isDown p = true := hd
  simp only [exec, execLinkRise, hd', finish]
  rfl

theorem exec_linkRise {p : Port} {s : State} (hd : s.isDown p = false) :
    exec (.linkRise p) s = .next (settle (setLink p true s)) := by
  have hd' : (setLink p true s).isDown p = false := hd
  simp only [exec, execLinkRise, hd', finish]
  rfl

/-- The expiry of a qualification that is due raises its port (R2, R16). -/
theorem exec_qualificationExpiry {p : Port} {s : State} (hd : s.isDown p = true)
    (hl : s.pins.links.get p = true) (hq : s.clock.due (s.port p).qual = true) :
    exec (.qualificationExpiry p) s =
      .next (settle (note (.port p) (s.setPort p ((s.port p).enterUp (s.clock.timer s.windowLength))))) := by
  simp only [exec, execQualificationExpiry, hd, hl, hq, finish]
  rfl

theorem exec_qualificationExpiry_of_not {p : Port} {s : State}
    (h : s.isDown p = false ∨ s.pins.links.get p = false ∨ s.clock.due (s.port p).qual = false) :
    exec (.qualificationExpiry p) s = .next (settle s) := by
  obtain h | h | h := h <;> simp [exec, execQualificationExpiry, finish, h]

/-- A scan window that is due ends with its port judged, and a change of state or indication notes it (R12, R16). -/
theorem exec_scanWindowEnd {p : Port} {s : State} (hd : s.isDown p = false)
    (hw : s.clock.due (s.port p).window = true) :
    let u := s.port p
    let v := u.judgeWindow p s.errorBound s.goodFloor s.windowLength
    exec (.scanWindowEnd p) s =
      .next (settle (if v.state = u.state ∧ v.ind = u.ind then s.setPort p v else note (.port p) (s.setPort p v))) := by
  intro u v
  have hnote : noteIf (v.state != u.state || v.ind != u.ind) (.port p) (s.setPort p v) =
      if v.state = u.state ∧ v.ind = u.ind then s.setPort p v else note (.port p) (s.setPort p v) := by
    by_cases h : v.state = u.state ∧ v.ind = u.ind
    · simp [noteIf, h]
    · rw [if_neg h]
      exact if_pos (by simpa [or_iff_not_imp_left] using h)
  rw [← hnote]
  simp only [exec, execScanWindowEnd, hd, hw, finish, Bool.not_false, Bool.and_self, if_true]
  rfl

theorem silentAfter_iff (p : Port) (floor good : Nat) :
    silentAfter p floor good = true ↔ p ≠ .tap ∧ floor ≠ 0 ∧ good < floor := by
  cases p <;> simp [silentAfter, Port.ring?]

end Sys2Proof.Machine

open Sys2Proof Sys2Proof.Machine

/-- Settles O9: each command by the branch of its meaning that the port's state and the timer choose. -/
theorem qualificationRaisesAPort : Obligations.QualificationRaisesAPort := fun _ _ =>
  ⟨fun hd => ⟨exec_linkRise_of_down hd, exec_linkFall_of_down hd⟩, exec_linkRise, exec_qualificationExpiry,
    exec_qualificationExpiry_of_not⟩

/-- Settles O10: the port unit that the window's end gives is `PortUnit.judgeWindow`. -/
theorem windowEndJudgesThePort : Obligations.WindowEndJudgesThePort := by
  intro p s hd hw
  refine ⟨_, exec_scanWindowEnd hd hw, fun he => if_pos he, fun he => if_neg (Nat.not_lt.mpr he), rfl,
    silentAfter_iff .., ?_⟩
  exact ⟨rfl, rfl, rfl, rfl, rfl, rfl, rfl, rfl, rfl⟩
end

section
/-! ## The start of a frame (R4, R5, R15, R88, R169) -/

namespace Sys2Proof.Machine

/-! ### Notes and indication events -/

/-- A note changes the report unit alone. -/
theorem note_eq (i : Item) (s : State) : note i s = { s with report := (note i s).report } := by
  obtain h | ⟨-, -, h⟩ | ⟨-, -, h⟩ := note_cases i s <;> rw [h]

theorem noteIf_eq (c : Bool) (i : Item) (s : State) : noteIf c i s = { s with report := (noteIf c i s).report } := by
  cases c
  · rfl
  · exact note_eq i s

/-- An indication event changes a port unit and the report unit alone (R15, R16). -/
theorem indEvent_eq (p : Port) (k : IndEvent) (s : State) :
    indEvent p k s = { s with ports := (indEvent p k s).ports, report := (indEvent p k s).report } := by
  unfold indEvent
  split
  · rfl
  · dsimp only
    rw [noteIf_eq]
    rfl

/-- The port unit after an event at a port that is not DOWN (R15). -/
theorem indEvent_port {p : Port} {s : State} (hd : s.isDown p = false) (k : IndEvent) :
    (indEvent p k s).port p =
      { s.port p with ind := (s.port p).ind.mark k, flags := (s.port p).flags.mark k } := by
  unfold indEvent
  rw [hd, noteIf_eq]
  exact (PerPort.get_set ..).trans (if_pos rfl)

/-- An event at a port changes neither its state nor its counters, DOWN or not. -/
theorem indEvent_counters (p q : Port) (k : IndEvent) (s : State) :
    ((indEvent p k s).port q).counters = (s.port q).counters ∧ (indEvent p k s).isDown q = s.isDown q := by
  unfold indEvent
  split
  · exact ⟨rfl, rfl⟩
  · rw [noteIf_eq]
    by_cases hq : q = p
    · subst hq; simp [State.port, State.isDown, State.setPort]
    · simp [State.port, State.isDown, State.setPort, hq]

/-! ### One part after another was replaced -/

@[simp] theorem dir_setPort (p : Port) (u : PortUnit) (r : RingPort) (s : State) :
    (s.setPort p u).dir r = s.dir r := rfl

/-! ### Takes -/

theorem Pool.take_lt {q : Pool} (h : q.wf = true) (hf : 0 < q.free) : q.take.1 < 256 := by
  obtain ⟨-, hle, -⟩ := insertBuffer_spec ⟨1, [], false⟩ 0 q.bufs (Pool.wf_rising h)
  unfold Pool.free at hf
  have : q.take.1 ≤ 0 + q.bufs.length := hle
  omega

theorem Pool.take_free {q : Pool} (h : q.wf = true) (hf : 0 < q.free) : q.take.2.free + 1 = q.free := by
  have hlen := Pool.take_length h
  unfold Pool.free at hf ⊢
  omega

/-! ### Which store a frame takes -/

theorem exec_frameStart {p : Port} {s : State} (hn : s.loader.nodeState ≠ .reset) (hd : s.isDown p = false)
    (hr : (s.port p).rx = .idle) : exec (.frameStart p) s = .next (settle (startReception p s)) := by
  simp [exec, execFrameStart, finish, hn, hd, hr]

theorem exec_frameStart_of_not {p : Port} {s : State}
    (h : s.isDown p = true ∨ (s.port p).rx ≠ .idle ∨ s.loader.nodeState = .reset) :
    exec (.frameStart p) s = .next (settle s) := by
  have h' : s.loader.nodeState = .reset ∨ s.isDown p = true ∨ (s.port p).rx ≠ .idle := by tauto
  simp only [exec, execFrameStart, finish, if_pos h']

theorem State.member_iff (s : State) :
    s.member = true ↔ s.loader.nodeState = .running ∨ s.loader.nodeState = .fallback := by
  simp [State.member]

theorem startReception_ring (r : RingPort) (s : State) :
    startReception r.port s = if s.member then storeStart r.port s else repeatStart r s := by
  unfold startReception
  rw [RingPort.port_ring]

theorem startReception_tap (s : State) : startReception .tap s =
    if s.loader.nodeState = .loading then setRx .tap (.discarding false) s else storeStart .tap s := rfl

/-- The receivers that store: any port of a ring member, and the tap port in TRANSIT (R4). -/
theorem startReception_stores {p : Port} {s : State}
    (h : s.member = true ∨ (s.loader.nodeState = .transit ∧ p = .tap)) :
    s.loader.nodeState ≠ .reset ∧ startReception p s = storeStart p s := by
  obtain hm | ⟨ht, rfl⟩ := h
  · have hn := (State.member_iff s).mp hm
    refine ⟨by rintro hc; simp [hc] at hn, ?_⟩
    cases hp : p.ring? with
    | some r => rw [Port.ring_port hp, startReception_ring, if_pos hm]
    | none =>
      obtain rfl : p = .tap := by cases p <;> simp_all [Port.ring?]
      rw [startReception_tap, if_neg]
      rintro hc; simp [hc] at hn
  · exact ⟨by simp [ht], by rw [startReception_tap, if_neg (by simp [ht])]⟩

theorem storeStart_of_free {s : State} (hf : 0 < s.free) (p : Port) :
    storeStart p s =
      ({ s with pool := s.pool.take.2 } : State).setPort p { s.port p with rx := .storing s.pool.take.1 } :=
  if_neg (Nat.ne_of_gt hf)

theorem storeStart_of_none {s : State} (hf : s.free = 0) (p : Port) :
    storeStart p s = indEvent p .pool
      ((setRx p (.discarding false) s).countPort p fun k => { k with noBuffer := raise k.noBuffer }) := if_pos hf

/-- With no buffer free the frame is discarded, NO-BUFFER rises and the POOL event is set (R5, R15). -/
theorem storeStart_starved {p : Port} {s : State} (hd : s.isDown p = false) (hf : s.free = 0) :
    (storeStart p s).pool = s.pool ∧ (storeStart p s).port p = { s.port p with
      rx := .discarding false
      ind := { (s.port p).ind with pool := true }
      flags := { (s.port p).flags with pool := true }
      counters := { (s.port p).counters with noBuffer := raise (s.port p).counters.noBuffer } } := by
  have hport : ((setRx p (.discarding false) s).countPort p
      fun k => { k with noBuffer := raise k.noBuffer }).port p = { s.port p with
        rx := .discarding false
        counters := { (s.port p).counters with noBuffer := raise (s.port p).counters.noBuffer } } := by
    simp [port_countPort, setRx]
  rw [storeStart_of_none hf]
  refine ⟨by rw [indEvent_eq]; rfl, ?_⟩
  rw [indEvent_port, hport]
  · rfl
  · rw [State.isDown, hport]; exact hd

/-- The start of a frame on the repeater path, by which store is free (R169). -/
theorem repeatStart_cases (p : RingPort) (s : State) :
    (repeatStart p s).pool = s.pool ∧
    ((s.dir p).first = .free → (repeatStart p s).dir p = { s.dir p with first := .receiving } ∧
      ((repeatStart p s).port p.port).rx = .repeating true) ∧
    ((s.dir p).first ≠ .free ∧ (s.dir p).second = .free →
      (repeatStart p s).dir p = { s.dir p with second := .receiving } ∧
      ((repeatStart p s).port p.port).rx = .repeating false) ∧
    ((s.dir p).first ≠ .free ∧ (s.dir p).second ≠ .free →
      (repeatStart p s).dir p = s.dir p ∧ ((repeatStart p s).port p.port).rx = .unkept false) := by
  unfold repeatStart
  by_cases hf : (s.dir p).first = .free
  · simp [hf]
  · by_cases hs : (s.dir p).second = .free <;> simp [hf, hs]

end Sys2Proof.Machine

open Sys2Proof Sys2Proof.Machine

/-- Settles O11, by the receiver that the node state and the port choose: one that stores, none, the tap port in
LOADING, and a ring port outside the ring. -/
theorem frameStartsTakeTheirStore : Obligations.FrameStartsTakeTheirStore := by
  refine ⟨?_, fun p s h => exec_frameStart_of_not h, ?_, ?_⟩
  · intro p s hd hr hwf hstores
    obtain ⟨hn, hstart⟩ := startReception_stores hstores
    have hexec := exec_frameStart hn hd hr
    rw [hstart] at hexec
    constructor
    · intro hf
      rw [storeStart_of_free hf] at hexec
      refine ⟨_, _, hexec, (Pool.get?_take hwf 0).1, Pool.take_lt hwf hf, ?_, ?_, Pool.take_wf hwf hf,
        Pool.take_free hwf hf, rfl, rfl⟩
      · rw [(Pool.get?_take hwf _).2, if_pos rfl]
      · intro i hi
        rw [(Pool.get?_take hwf i).2, if_neg hi]
    · exact fun hf => ⟨_, hexec, storeStart_starved hd hf⟩
  · intro s hd hr hl
    rw [exec_frameStart (by simp [hl]) hd hr, startReception_tap, if_pos hl]
    rfl
  · intro p s hd hr hn hm
    refine ⟨_, exec_frameStart hn hd hr, ?_⟩
    rw [startReception_ring, if_neg (by simp [hm])]
    exact repeatStart_cases p s
end

section
/-! ## Giants and the end of a frame (R5, R6, R8, R9, R11, R169) -/

namespace Sys2Proof.Machine

@[simp] theorem setPort_port (p : Port) (s : State) : s.setPort p (s.port p) = s := by
  simp [State.setPort, State.port]

/-! ### What a reception held -/

section Dropped
variable {p : Port} {s : State}

theorem dropReception_storing {b : Nat} (h : (s.port p).rx = .storing b) : dropReception p s = release b s := by
  simp [dropReception, h]

theorem dropReception_repeating {r : RingPort} {f : Bool} (h : (s.port r.port).rx = .repeating f) :
    dropReception r.port s = freeStore r f s := by
  simp [dropReception, h]

theorem dropReception_discarding {g : Bool} (h : (s.port p).rx = .discarding g) : dropReception p s = s := by
  simp [dropReception, h]

theorem dropReception_unkept {g : Bool} (h : (s.port p).rx = .unkept g) : dropReception p s = s := by
  simp [dropReception, h]

theorem dropReception_idle (h : (s.port p).rx = .idle) : dropReception p s = s := by
  simp [dropReception, h]

end Dropped

/-! ### GIANT -/

/-- GIANT marks the reception and drops what it held, which leaves `t` (R6). -/
theorem exec_giant {p : Port} {s t : State} {r : Receiver} (hr : (s.port p).rx = r) (ht : dropReception p s = t) :
    exec (.giant p) s = .next (settle (t.setPort p { s.port p with rx := r.markGiant })) := by
  subst hr ht
  simp only [exec, execGiant, finish, setRx, dropReception_port]

theorem exec_giant_idle {p : Port} {s : State} (h : (s.port p).rx = .idle) :
    exec (.giant p) s = .next (settle s) := by
  have hu : { s.port p with rx := Receiver.idle.markGiant } = s.port p := by
    rw [show Receiver.idle.markGiant = (s.port p).rx by rw [h]; rfl]
  rw [exec_giant h (dropReception_idle h), hu, setPort_port]

/-! ### FRAME_END -/

theorem Receiver.isGiant_iff (r : Receiver) : r.isGiant = true ↔ r = .discarding true ∨ r = .unkept true := by
  cases r <;> simp [Receiver.isGiant]

/-- A frame is INTACT when it carries no mark and passes every test (R8). -/
theorem frameOutcome_intact_iff (p : Port) (m : Bool) (bytes : List Byte) (steps : Nat) :
    frameOutcome p m bytes steps = .intact ↔
      m = false ∧ bytes.length ≤ longest p ∧ 64 ≤ bytes.length ∧ steps % 4 = 0 ∧ fcsOk bytes = true := by
  unfold frameOutcome
  split_ifs <;> grind

/-- The counter of a frame that is not INTACT, by the first test met (R8, R11). -/
theorem counters_frameOutcome {p : Port} {m : Bool} {bytes : List Byte} {steps : Nat}
    (h : frameOutcome p m bytes steps ≠ .intact) (k : PortCounters) :
    k.outcome (frameOutcome p m bytes steps) =
      if m = true ∨ longest p < bytes.length then { k with giant := raise k.giant }
      else if bytes.length < 64 then { k with runt := raise k.runt }
      else if steps % 4 ≠ 0 then { k with align := raise k.align }
      else { k with fcs := raise k.fcs } := by
  unfold frameOutcome at h ⊢
  split_ifs at h ⊢ with hgiant hrunt halign hfcs
  · rfl
  · rfl
  · rfl
  · exact absurd rfl h
  · rfl

theorem exec_frameEnd_idle {p : Port} {s : State} (h : (s.port p).rx = .idle) (bytes : List Byte) (steps : Nat) :
    exec (.frameEnd p bytes steps) s = .next (settle s) := by
  simp [exec, execFrameEnd, finish, h]

/-- A frame that is not INTACT drops what its receiver held, counts in its error counter and in the window's errors,
and leaves the receiver IDLE (R8). -/
theorem exec_frameEnd_faulty {p : Port} {s : State} {bytes : List Byte} {steps : Nat} (hr : (s.port p).rx ≠ .idle)
    (ho : frameOutcome p (s.port p).rx.isGiant bytes steps ≠ .intact) :
    exec (.frameEnd p bytes steps) s = .next (settle ((dropReception p s).setPort p { s.port p with
      rx := .idle
      errors := min 65535 ((s.port p).errors + 1)
      counters := (s.port p).counters.outcome (frameOutcome p (s.port p).rx.isGiant bytes steps) })) := by
  simp only [exec, execFrameEnd, finish, if_neg hr, endFrame, if_neg ho, countOutcome, dropReception_port]

/-- A port unit after an INTACT frame, before what R9 makes of the frame. -/
def PortUnit.goodEnd (u : PortUnit) : PortUnit := { u with rx := .idle, good := min 65535 (u.good + 1) }

theorem exec_frameEnd_intact {p : Port} {s : State} {bytes : List Byte} {steps : Nat} (hr : (s.port p).rx ≠ .idle)
    (ho : frameOutcome p (s.port p).rx.isGiant bytes steps = .intact) :
    exec (.frameEnd p bytes steps) s =
      .next (settle (intactFrame p (s.port p).rx bytes (s.setPort p (s.port p).goodEnd))) := by
  simp only [exec, execFrameEnd, finish, if_neg hr, endFrame, countOutcome, ho, if_true]
  rfl

end Sys2Proof.Machine

open Sys2Proof Sys2Proof.Machine

/-- Settles O12: a faulty frame ends as `exec_frameEnd_faulty` says, and what it held is named by its receiver. -/
theorem faultyFramesAreCountedOnce : Obligations.FaultyFramesAreCountedOnce := by
  intro p s u kept free empty
  refine ⟨exec_giant_idle, fun _ hr => exec_giant hr (dropReception_storing hr),
    fun _ hr => exec_giant hr (dropReception_discarding hr), ?_,
    fun _ hr => exec_giant hr (dropReception_unkept hr), ?_⟩
  · rintro r f rfl hr
    exact exec_giant hr (dropReception_repeating hr)
  intro bytes steps marked faulty ended
  refine ⟨fun hr => exec_frameEnd_idle hr bytes steps, ?_, ?_⟩
  · intro hbad
    have ho : frameOutcome p u.rx.isGiant bytes steps ≠ .intact := by
      rw [Ne, frameOutcome_intact_iff]
      rintro ⟨hm, hlong, hshort, hsteps, hfcs⟩
      have hmark : ¬ marked := fun h => by simpa [hm] using (Receiver.isGiant_iff u.rx).mpr h
      rcases hbad with h | h | h | h | h
      · exact hmark h
      · omega
      · omega
      · exact h hsteps
      · simp [hfcs] at h
    have hend : ∀ {r : Receiver} {t : State}, u.rx = r → r ≠ .idle → dropReception p s = t →
        exec (.frameEnd p bytes steps) s = .next (settle (t.setPort p ended)) := by
      rintro r t rfl hr rfl
      rw [exec_frameEnd_faulty hr ho, counters_frameOutcome ho]
      simp only [Receiver.isGiant_iff]
      rfl
    refine ⟨fun _ hr => hend hr nofun (dropReception_storing hr),
      fun _ hr => hend hr nofun (dropReception_discarding hr), ?_, fun _ hr => hend hr nofun (dropReception_unkept hr)⟩
    rintro r f rfl hr
    exact hend hr nofun (dropReception_repeating hr)
  · intro hok hlen hr
    have ho : frameOutcome p u.rx.isGiant bytes steps = .intact := by
      rw [frameOutcome_intact_iff, hr]
      simp only [faulty, not_or, not_lt, ne_eq, not_not, Bool.not_eq_false] at hok
      exact ⟨rfl, hlen, hok⟩
    rw [exec_frameEnd_intact (by rw [hr]; simp) ho, show (s.port p).rx = _ from hr]
    rfl
end

section
/-! ## INTACT frames handed on, and frames refused admission (R8, R9, R22, R34, R36, R37, R89) -/

namespace Sys2Proof.Machine

/-! ### A stored INTACT frame -/

theorem countPort_setPort (p : Port) (u : PortUnit) (f : PortCounters → PortCounters) (s : State) :
    (s.setPort p u).countPort p f = s.setPort p { u with counters := f u.counters } := by
  simp [State.countPort, State.setPort, State.port]

/-- A port unit after a stored INTACT frame (R8). -/
def PortUnit.stored (u : PortUnit) : PortUnit :=
  { u.goodEnd with counters := { u.counters with rxGood := raise u.counters.rxGood } }

/-- The state in which a stored INTACT frame is handed on: RX-GOOD and the window's good count have risen, and the
buffer holds the frame's bytes. -/
def afterStored (p : Port) (b : Nat) (bytes : List Byte) (s : State) : State :=
  { s with pool := s.pool.modify b fun x => { x with bytes := bytes, hasFcs := true } }.setPort p (s.port p).stored

section Stored
variable {p : Port} {b : Nat} {bytes : List Byte} {steps : Nat} {s : State}

theorem exec_frameEnd_stored (hr : (s.port p).rx = .storing b) (hmin : 64 ≤ bytes.length)
    (hmax : bytes.length ≤ longest p) (hsteps : steps % 4 = 0) (hfcs : fcsOk bytes = true) :
    exec (.frameEnd p bytes steps) s =
      .next (settle (handOn p b bytes (s.setPort p (s.port p).goodEnd))) := by
  have ho : frameOutcome p (s.port p).rx.isGiant bytes steps = .intact := by
    rw [frameOutcome_intact_iff, hr]
    exact ⟨rfl, hmax, hmin, hsteps, hfcs⟩
  rw [exec_frameEnd_intact (by simp [hr]) ho, hr]
  rfl

theorem handOn_ring (r : RingPort) (b : Nat) (bytes : List Byte) (s : State) :
    handOn r.port b bytes (s.setPort r.port (s.port r.port).goodEnd) =
      { afterStored r.port b bytes s with
        handed := s.handed.set r (s.handed.get r ++ [Handed.mk b s.clock.nodeTime]) } := by
  simp only [handOn, RingPort.port_ring, countPort_setPort]
  rfl

theorem handOn_tap (b : Nat) (bytes : List Byte) (s : State) :
    handOn .tap b bytes (s.setPort .tap (s.port .tap).goodEnd) = tapPath b bytes (afterStored .tap b bytes s) := by
  simp only [handOn, Port.ring?, countPort_setPort]
  rfl

end Stored

/-! ### The tap path (R22, R37) -/

theorem tapPath_control {f : List Byte} {s : State} (hf : destination f = s.cfg.control) (b : Nat) :
    tapPath b f s = { s with commandIn := s.commandIn ++ [b] } := if_pos hf

theorem tapPath_outside {f : List Byte} {s : State} (hf : destination f ≠ s.cfg.control) (hm : s.member = false)
    (b : Nat) : tapPath b f s = release b s := by
  simp [tapPath, hf, hm]

theorem tapPath_refused {f : List Byte} {s : State} (hf : destination f ≠ s.cfg.control) (hm : s.member = true)
    (ha : s.free < (classify s.cfg.classMap f).threshold) (b : Nat) :
    tapPath b f s = refuseAdmission .tap (release b s) := by
  have hno : s.admits (classify s.cfg.classMap f) = false := by simpa [State.admits] using ha
  simp [tapPath, hf, hm, hno]

/-- A refusal changes a port unit and the report unit alone (R9, R15). -/
theorem refuseAdmission_eq (p : Port) (s : State) : refuseAdmission p s =
    { s with ports := (refuseAdmission p s).ports, report := (refuseAdmission p s).report } := by
  unfold refuseAdmission
  rw [indEvent_eq]
  rfl

theorem refuseAdmission_counters (p : Port) (s : State) : ((refuseAdmission p s).port p).counters =
    { (s.port p).counters with refused := raise (s.port p).counters.refused } := by
  unfold refuseAdmission
  rw [(indEvent_counters ..).1, port_countPort, if_pos rfl]

/-- A refusal at a port that is not DOWN sets the POOL indication and its window flag (R15). -/
theorem refuseAdmission_port {p : Port} {s : State} (hd : s.isDown p = false) : (refuseAdmission p s).port p =
    { s.port p with
      ind := { (s.port p).ind with pool := true }
      flags := { (s.port p).flags with pool := true }
      counters := { (s.port p).counters with refused := raise (s.port p).counters.refused } } := by
  have hport := (port_countPort s p p fun k => { k with refused := raise k.refused }).trans (if_pos rfl)
  unfold refuseAdmission
  rw [indEvent_port, hport]
  · rfl
  · rw [State.isDown, hport]; exact hd

/-! ### The ring filter's first stages (R34 to R37) -/

theorem exec_ringFilter {p : RingPort} {h : Handed} {rest : List Handed} {s : State} (hm : s.member = true)
    (hh : s.handed.get p = h :: rest) : exec (.ringFilter p) s =
      .next (settle (filterFrame p h { s with handed := s.handed.set p rest })) := by
  simp [exec, execRingFilter, finish, hh, hm]

/-- What a ring frame that is not foreign meets after the mark of a crossed copy (R36 to R38). -/
theorem filterFrame_of_kind {p : RingPort} {h : Handed} {k : Kind} {s : State}
    (hk : ringKind (s.buffer h.buf) = some k) :
    let b := s.buffer h.buf
    let u := crossedMark p (isCrossed p k b) s
    filterFrame p h s =
      if !u.admits (admissionClass k b.trailer) then refuseAdmission p.port (release h.buf u)
      else if b.trailer.source = u.node then ownFrame p h k b u
      else peerFrame p h k b u := by
  simp only [filterFrame, hk]

section Crossed
variable (p : RingPort) (c : Bool) (s : State)

/-- The mark of a crossed copy changes a port unit, the ring filter and the report unit alone (R36). -/
theorem crossedMark_eq : crossedMark p c s =
    { s with
      ports := (crossedMark p c s).ports
      filter := (crossedMark p c s).filter
      report := (crossedMark p c s).report } := by
  unfold crossedMark
  cases c
  · rfl
  · rw [if_pos rfl, indEvent_eq]
    rfl

theorem crossedMark_filter : (crossedMark p c s).filter =
    if c then (s.countFilter p fun k => { k with crossed := raise k.crossed }).filter else s.filter := by
  unfold crossedMark
  cases c
  · rfl
  · rw [if_pos rfl, indEvent_eq]
    rfl

theorem crossedMark_crossed : ((crossedMark p c s).filter.counters.get p).crossed =
    if c then raise (s.filter.counters.get p).crossed else (s.filter.counters.get p).crossed := by
  rw [crossedMark_filter]
  cases c
  · rfl
  · simp [State.countFilter]

theorem crossedMark_counters (q : Port) : ((crossedMark p c s).port q).counters = (s.port q).counters ∧
    (crossedMark p c s).isDown q = s.isDown q := by
  unfold crossedMark
  cases c
  · exact ⟨rfl, rfl⟩
  · exact indEvent_counters p.port q .crossed _

end Crossed

/-- A frame whose class's threshold exceeds the free count is refused, a crossed one counted all the same (R36, R37). -/
theorem filterFrame_refused {p : RingPort} {h : Handed} {k : Kind} {s : State}
    (hk : ringKind (s.buffer h.buf) = some k)
    (hfree : s.free < (admissionClass k (s.buffer h.buf).trailer).threshold) :
    filterFrame p h s =
      refuseAdmission p.port (release h.buf (crossedMark p (isCrossed p k (s.buffer h.buf)) s)) := by
  have hno : (crossedMark p (isCrossed p k (s.buffer h.buf)) s).admits
      (admissionClass k (s.buffer h.buf).trailer) = false := by
    rw [crossedMark_eq]
    exact decide_eq_false (Nat.not_le.mpr hfree)
  simp only [filterFrame_of_kind hk, hno, Bool.not_false, if_true]

/-- What the refusal of a ring frame changes. -/
theorem refusedFrame_eq (p : RingPort) (b : Nat) (c : Bool) (s : State) :
    ∃ ports report, refuseAdmission p.port (release b (crossedMark p c s)) =
      { s with
        ports := ports, filter := (crossedMark p c s).filter, report := report, pool := s.pool.release b } := by
  have hmark := crossedMark_eq p c s
  have hrefuse := refuseAdmission_eq p.port (release b (crossedMark p c s))
  generalize (refuseAdmission p.port (release b (crossedMark p c s))).ports = ports at hrefuse
  generalize (refuseAdmission p.port (release b (crossedMark p c s))).report = report at hrefuse
  exact ⟨ports, report, by rw [hrefuse, release, hmark]⟩

theorem isCrossed_iff (p : RingPort) (k : Kind) (b : Buffer) : isCrossed p k b = true ↔
    b.trailer.lane.ownPort = p ∧ ¬ (k = .roll ∧ rollTurned b.body = true) := by
  simp [isCrossed, or_iff_not_imp_left]

end Sys2Proof.Machine

open Sys2Proof Sys2Proof.Machine

/-- Settles O13, by the way a stored INTACT frame takes from its port: the ring filter or the tap path. -/
theorem intactFramesAreHandedOn : Obligations.IntactFramesAreHandedOn := by
  intro p b bytes steps s hr hmin hmax hsteps hfcs u q
  have hexec := exec_frameEnd_stored hr hmin hmax hsteps hfcs
  refine ⟨?_, ?_, ?_⟩
  · rintro r rfl
    rw [hexec, handOn_ring]
    rfl
  · rintro rfl hc
    rw [hexec, handOn_tap, tapPath_control (s := afterStored .tap b bytes s) hc]
    rfl
  · rintro rfl hc ht
    have hm : s.member = false := by simp [State.member, ht]
    rw [hexec, handOn_tap, tapPath_outside (s := afterStored .tap b bytes s) hc hm]
    rfl

/-- Settles O18: both the ring filter and the tap path end in `refuseAdmission` of the frame, its buffer released. -/
theorem refusedFramesAreReleased : Obligations.RefusedFramesAreReleased := by
  constructor
  · intro p h rest k s hm hh hk hfree
    let v : State := { s with handed := s.handed.set p rest }
    have hrefused : filterFrame p h v =
        refuseAdmission p.port (release h.buf (crossedMark p (isCrossed p k (s.buffer h.buf)) v)) :=
      filterFrame_refused hk hfree
    have hexec := exec_ringFilter hm hh
    rw [hrefused] at hexec
    obtain ⟨ports, report, heq⟩ := refusedFrame_eq p h.buf (isCrossed p k (s.buffer h.buf)) v
    have hcross := crossedMark_counters p (isCrossed p k (s.buffer h.buf)) v p.port
    refine ⟨_, hexec, by rw [heq], by rw [heq], ?_, ?_, ?_, ?_⟩
    · rw [refuseAdmission_counters]
      exact congrArg (fun c : PortCounters => { c with refused := raise c.refused }) hcross.1
    · intro hd
      have hd' : (release h.buf (crossedMark p (isCrossed p k (s.buffer h.buf)) v)).isDown p.port = false :=
        hcross.2.trans hd
      rw [refuseAdmission_port hd']
      exact ⟨rfl, rfl⟩
    · rw [heq]
      dsimp only
      rw [crossedMark_crossed]
      simp only [isCrossed_iff]
      rfl
    · rw [heq]
      exact ⟨rfl, rfl, rfl, rfl, rfl, rfl, rfl⟩
  · intro b bytes steps s hr hmin hmax hsteps hfcs hm hd hc hfree
    have hexec := exec_frameEnd_stored hr hmin hmax hsteps hfcs
    have hfree' : (afterStored .tap b bytes s).free < (classify s.cfg.classMap bytes).threshold := by
      simpa [afterStored, State.free, Pool.free, Pool.modify] using hfree
    rw [handOn_tap, tapPath_refused (s := afterStored .tap b bytes s) hc hm hfree'] at hexec
    refine ⟨_, hexec, by rw [refuseAdmission_eq]; rfl, refuseAdmission_port hd, ?_⟩
    rw [refuseAdmission_eq]
    exact ⟨rfl, rfl, rfl, rfl, rfl, rfl, rfl⟩
end

section
/-! ## Own CHECK frames (R36, R38, R40, R41, R132 to R134, R137) -/

namespace Sys2Proof.Machine

/-! ### Noted items -/

/-- Two states whose next notes are the same: the node state, the change list and MORE agree (R185). -/
structure SameNotes (s t : State) : Prop where
  nodeState : s.loader.nodeState = t.loader.nodeState
  changes : s.report.changes = t.report.changes
  more : s.report.more = t.report.more

theorem SameNotes.trans {s t u : State} (h : SameNotes s t) (g : SameNotes t u) : SameNotes s u :=
  ⟨h.1.trans g.1, h.2.trans g.2, h.3.trans g.3⟩

theorem SameNotes.notes {s t : State} (h : SameNotes s t) (l : List Item) :
    SameNotes (l.foldl (fun u i => note i u) s) (l.foldl (fun u i => note i u) t) := by
  obtain ⟨hc, hm⟩ := foldl_note_lists l s t h.1 h.2 h.3
  refine ⟨?_, hc, hm⟩
  rw [(foldl_note_sameBut l s).loader, (foldl_note_sameBut l t).loader]
  exact h.1

/-- Notes in the order of a list are the notes that the list's items are. -/
theorem State.Noted.of_sameNotes {s t : State} {l : List Item}
    (h : SameNotes t (l.foldl (fun u i => note i u) s)) : s.Noted l t.report :=
  ⟨l, .refl l, h.changes, h.more⟩

/-- Two runs of notes, one after the other, are the notes of both lists. -/
theorem State.Noted.append {s v u w : State} {k l : List Item} (hs : SameNotes v s)
    (hu : SameNotes u (k.foldl (fun u i => note i u) v)) (hw : SameNotes w (l.foldl (fun u i => note i u) u)) :
    s.Noted (k ++ l) w.report := by
  refine .of_sameNotes ?_
  rw [List.foldl_append]
  exact hw.trans ((hu.trans (hs.notes k)).notes l)

/-- A note under a condition is the note of the list of the items that the condition leaves. -/
theorem noteIf_eq_foldl (c : Bool) (i : Item) (s : State) :
    noteIf c i s = (if c then [i] else []).foldl (fun u i => note i u) s := by
  cases c <;> rfl

/-- The items that the mark of a crossed copy notes (R16, R36). -/
def crossedItems (p : RingPort) (c : Bool) (s : State) : List Item :=
  if c = true ∧ s.isDown p.port = false ∧ (s.port p.port).ind.crossed = false then [.port p.port] else []

theorem indEvent_notes (p : Port) (k : IndEvent) (s : State) :
    SameNotes (indEvent p k s)
      ((if s.isDown p = false ∧ (s.port p).ind.has k = false then [Item.port p] else []).foldl
        (fun u i => note i u) s) := by
  unfold indEvent
  by_cases hd : s.isDown p = true
  · simp only [hd, if_true, Bool.true_eq_false, false_and, if_false]
    exact ⟨rfl, rfl, rfl⟩
  · have hd' : s.isDown p = false := by simpa using hd
    simp only [hd', Bool.false_eq_true, if_false, true_and]
    rw [noteIf_eq_foldl]
    simp only [Bool.not_eq_true']
    refine SameNotes.notes ?_ _
    exact ⟨rfl, rfl, rfl⟩

theorem crossedMark_notes (p : RingPort) (c : Bool) (s : State) :
    SameNotes (crossedMark p c s) ((crossedItems p c s).foldl (fun u i => note i u) s) := by
  unfold crossedMark crossedItems
  cases c
  · exact ⟨rfl, rfl, rfl⟩
  · simp only [if_true, true_and]
    refine (indEvent_notes ..).trans (SameNotes.notes (t := s) ?_ _)
    exact ⟨rfl, rfl, rfl⟩

/-! ### Which unit an own CHECK frame reaches -/

/-- CHECK frames are always admitted (R37, R89), and an own one ends at stage 4 (R38). -/
theorem filterFrame_ownCheck {p : RingPort} {h : Handed} {s : State}
    (hk : ringKind (s.buffer h.buf) = some .check) (hsrc : (s.buffer h.buf).trailer.source = s.node) :
    filterFrame p h s =
      ownFrame p h .check (s.buffer h.buf) (crossedMark p (isCrossed p .check (s.buffer h.buf)) s) := by
  have hnode : (crossedMark p (isCrossed p .check (s.buffer h.buf)) s).node = s.node := by
    rw [crossedMark_eq]; rfl
  simp [filterFrame_of_kind hk, admissionClass, State.admits, Class.threshold, hnode, hsrc]

/-! ### Clash frames -/

/-- What a clash frame changes (R41, R54). -/
theorem clashFrame_eq (b : Nat) (s : State) : ∃ report, clashFrame b s =
    { s with
      filter := { s.filter with
        clash := true, hold := some ⟨s.clock.timerUnits, 100000⟩, clashCount := raise s.filter.clashCount }
      pool := s.pool.release b
      report := report } := by
  unfold clashFrame
  rw [noteIf_eq]
  exact ⟨_, rfl⟩

/-- A rise of CLASH is noted (R41). -/
theorem clashFrame_notes (b : Nat) (s : State) :
    SameNotes (clashFrame b s) ((if s.filter.clash then [] else [Item.clash]).foldl (fun u i => note i u) s) := by
  unfold clashFrame
  rw [noteIf_eq_foldl]
  have hitems : (if !s.filter.clash then [Item.clash] else []) = if s.filter.clash then [] else [Item.clash] := by
    cases s.filter.clash <;> rfl
  rw [hitems]
  generalize (if s.filter.clash then [] else [Item.clash]) = l
  obtain ⟨hn, hc, hm⟩ := SameNotes.notes (s := { s with filter := { s.filter with
    clash := true, hold := some (s.clock.timer clashHoldLength), clashCount := raise s.filter.clashCount } })
    (t := s) ⟨rfl, rfl, rfl⟩ l
  exact ⟨hn, hc, hm⟩

/-! ### Returns -/

/-- A changed lane, and what is told of it, changes the ring check unit by that lane and the ring state (R137). -/
theorem changeLane_check (x : Lane) (f : CheckLane → CheckLane) (s : State) :
    ∃ ring, (changeLane x f s).check =
      { s.check with lanes := s.check.lanes.set x (f (s.check.lanes.get x)), ring := ring } := by
  unfold changeLane
  rw [(SameBut.tellLanes ..).check]
  exact ⟨_, rfl⟩

theorem changeLane_sameBut (x : Lane) (f : CheckLane → CheckLane) (s : State) :
    ∃ check, SameBut { s with check := check } (changeLane x f s) :=
  ⟨_, .tellLanes ..⟩

/-- The changes that a changed lane makes are noted, where no trigger follows (R137). -/
theorem changeLane_notes (x : Lane) (f : CheckLane → CheckLane) {s : State}
    (h : (changeLane x f s).check.ring = s.check.ring ∨ s.cfg.autoRoll = false) :
    SameNotes (changeLane x f s)
      ((s.check.changedItems (changeLane x f s).check).foldl (fun u i => note i u) s) := by
  unfold changeLane at h ⊢
  dsimp only at h ⊢
  rw [(SameBut.tellLanes ..).check] at h ⊢
  rw [tellLanes_eq_notes _ _ h]
  refine SameNotes.notes ?_ _
  exact ⟨rfl, rfl, rfl⟩

/-- How an own CHECK frame's return changes its lane: counted when it is current, else late (R132 to R134). -/
def returnedLane (t : Trailer) (latency : Stamp) (s : State) (l : CheckLane) : CheckLane :=
  if isCurrentReturn t s then l.countReturn latency s.ringPortDown else l.countLate

theorem takeReturn_eq (t : Trailer) (sendTime arrival : Stamp) (s : State) :
    takeReturn t sendTime arrival s = changeLane t.lane (returnedLane t (arrival - sendTime) s) s := by
  unfold takeReturn returnedLane
  split <;> rfl

theorem isCurrentReturn_iff (t : Trailer) (s : State) : isCurrentReturn t s = true ↔
    t.epoch = s.loader.ownEpoch ∧ (s.check.number - t.seq).toNat + 1 ≤ s.cfg.profile.missLimit := by
  simp [isCurrentReturn]

theorem Latency.update_eq (x : Stamp) (l : Latency) :
    l.update x = ⟨true, x, if l.present = true ∧ x.toNat ≤ l.max.toNat then l.max else x⟩ := by
  simp [Latency.update, BitVec.le_def]

theorem Lane.other_ne (x : Lane) : x.other ≠ x := by cases x <;> decide

theorem returnedLane_late {t : Trailer} {s : State} (h : isCurrentReturn t s = false) (latency : Stamp)
    (l : CheckLane) : returnedLane t latency s l = { l with lateCheck := raise l.lateCheck } := by
  rw [returnedLane, h]
  rfl

theorem returnedLane_current {t : Trailer} {s : State} (h : isCurrentReturn t s = true) (latency : Stamp)
    (l : CheckLane) : returnedLane t latency s l = { l with
      returns := raise l.returns, returned := true
      latency := ⟨true, latency,
        if l.latency.present = true ∧ latency.toNat ≤ l.latency.max.toNat then l.latency.max else latency⟩
      state := if s.ringPortDown then l.state else .closed
      miss := if s.ringPortDown then l.miss else 0 } := by
  rw [returnedLane, if_pos h, CheckLane.countReturn, Latency.update_eq]

/-- An own CHECK frame with the node's origin tag changes its lane and, where no trigger follows, notes the changes;
then its buffer's hold ends (R54, R132, R137). -/
theorem ownFrame_return {b : Buffer} {s : State} (htag : checkTag b.body = s.cfg.originTag) (p : RingPort)
    (h : Handed) :
    let x := b.trailer.lane
    ∃ w, ownFrame p h .check b s = release h.buf w ∧ (∃ check, SameBut { s with check := check } w) ∧
      w.check.number = s.check.number ∧ w.check.period = s.check.period ∧
      w.check.lanes.get x.other = s.check.lanes.get x.other ∧
      w.check.lanes.get x =
        returnedLane b.trailer (h.arrival - checkSendTime b.body) s (s.check.lanes.get x) ∧
      (w.check.ring = s.check.ring ∨ s.cfg.autoRoll = false →
        SameNotes w ((s.check.changedItems w.check).foldl (fun u i => note i u) s)) := by
  intro x
  let f := returnedLane b.trailer (h.arrival - checkSendTime b.body) s
  obtain ⟨ring, hring⟩ := changeLane_check x f s
  refine ⟨changeLane x f s, ?_, changeLane_sameBut x f s, ?_, ?_, ?_, ?_, changeLane_notes x f⟩
  · rw [ownFrame, if_pos htag, takeReturn_eq]
  · rw [hring]
  · rw [hring]
  · rw [hring]
    simp [Lane.other_ne]
  · rw [hring]
    simp [f]

theorem crossedMark_clash (p : RingPort) (c : Bool) (s : State) :
    (crossedMark p c s).filter.clash = s.filter.clash ∧
      (crossedMark p c s).filter.clashCount = s.filter.clashCount := by
  rw [crossedMark_filter]
  cases c <;> exact ⟨rfl, rfl⟩

theorem crossedMark_ringPortDown (p : RingPort) (c : Bool) (s : State) :
    (crossedMark p c s).ringPortDown = s.ringPortDown := by
  simp only [State.ringPortDown, crossedMark_counters]

end Sys2Proof.Machine

open Sys2Proof Sys2Proof.Machine

/-- Settles O45: the frame's way through the stages ends at a clash frame or at a changed lane, after the mark of a
crossed copy. -/
theorem returnsCloseTheirLane : Obligations.ReturnsCloseTheirLane := by
  intro p h rest s hm hh b x l latency current portDown crossed hk hsrc
  let v : State := { s with handed := s.handed.set p rest }
  have hframe : filterFrame p h v = ownFrame p h .check b (crossedMark p (isCrossed p .check b) v) :=
    filterFrame_ownCheck hk hsrc
  have hexec := exec_ringFilter hm hh
  rw [hframe] at hexec
  have hcrossed : crossedItems p (isCrossed p .check b) v = crossed := by
    simp only [crossedItems, isCrossed_iff]
    simp [crossed, x, v, State.isDown, State.port]
  have hmark := crossedMark_notes p (isCrossed p .check b) v
  rw [hcrossed] at hmark
  have hclash := crossedMark_clash p (isCrossed p .check b) v
  have hdown := crossedMark_ringPortDown p (isCrossed p .check b) v
  have hu := crossedMark_eq p (isCrossed p .check b) v
  generalize crossedMark p (isCrossed p .check b) v = u at *
  obtain ⟨hcheck, hcfg, hepoch, hhanded, hsources, hslots, htagger, htime, hpool, hclock⟩ :
      u.check = s.check ∧ u.cfg = s.cfg ∧ u.loader.ownEpoch = s.loader.ownEpoch ∧ u.handed = s.handed.set p rest ∧
        u.sources = s.sources ∧ u.slots = s.slots ∧ u.tagger = s.tagger ∧ u.time = s.time ∧ u.pool = s.pool ∧
        u.clock = s.clock := by
    rw [hu]
    exact ⟨rfl, rfl, rfl, rfl, rfl, rfl, rfl, rfl, rfl, rfl⟩
  have hnotes : SameNotes v s := ⟨rfl, rfl, rfl⟩
  refine ⟨_, hexec, ?_⟩
  by_cases htag : BitVec.ofNat 32 (fieldAt b.body 14 4) = s.cfg.originTag
  · have hcurrent : isCurrentReturn b.trailer u = true ↔ current := by
      rw [isCurrentReturn_iff, hcheck, hcfg, hepoch]
    obtain ⟨w, hown, ⟨check, hsame⟩, hnumber, hperiod, hother, hlane, hitems⟩ :=
      ownFrame_return (htag.trans (congrArg Settings.originTag hcfg).symm) p h
    rw [hcheck] at hnumber hperiod hother hlane hitems
    rw [hcfg] at hitems
    rw [hown]
    refine ⟨hsame.handed.trans hhanded, hsame.sources.trans hsources, hsame.slots.trans hslots,
      hsame.tagger.trans htagger, hsame.time.trans htime, fun hne => absurd htag hne, fun _ =>
      ⟨(congrArg Filter.clash hsame.filter).trans hclash.1, hnumber, hperiod, hother,
        fun hquiet => ?_, fun hlate => ?_, fun hnow => ?_⟩⟩
    · show s.Noted (crossed ++ s.check.changedItems w.check) w.report
      exact .append hnotes hmark (hitems hquiet)
    · exact hlane.trans (returnedLane_late (Bool.eq_false_iff.mpr (hcurrent.not.mpr hlate)) _ l)
    · refine hlane.trans ((returnedLane_current (hcurrent.mpr hnow) _ l).trans ?_)
      have hport : u.ringPortDown = true ↔ portDown := by
        rw [hdown]
        exact Bool.or_eq_true_iff
      simp only [hport]
      rfl
  · have hown : ownFrame p h .check b u = clashFrame h.buf u :=
      if_neg fun he => htag (he.trans (congrArg Settings.originTag hcfg))
    obtain ⟨report, hframe⟩ := clashFrame_eq h.buf u
    have hitems := clashFrame_notes h.buf u
    rw [hclash.1] at hitems
    rw [hown]
    refine ⟨?_, ?_, ?_, ?_, ?_, fun _ => ⟨.append hnotes hmark hitems, ?_⟩, fun he => absurd he htag⟩
    all_goals rw [hframe]
    · exact hhanded
    · exact hsources
    · exact hslots
    · exact htagger
    · exact htime
    · exact ⟨hcheck, congrArg (·.release h.buf) hpool, rfl, congrArg raise hclash.2,
        congrArg (fun c : Clock => some (Timer.mk c.timerUnits 100000)) hclock⟩
end

section
/-! ## Replies and the commands that need no round (R91, R93, R182, R183, R195) -/

namespace Sys2Proof.Machine

/-! ### The buffer of a composed frame -/

section Composed
variable {q : Pool} (bytes : List Byte)

/-- The pool with a composed frame written into the buffer that was taken for it (R91). -/
def Pool.composed (q : Pool) (bytes : List Byte) : Pool :=
  q.take.2.modify q.take.1 fun b => { b with bytes := bytes, hasFcs := false }

theorem Pool.composed_wf (h : q.wf = true) (hf : 0 < q.free) : (q.composed bytes).wf = true :=
  Pool.modify_wf (Pool.take_wf h hf) fun _ hb => hb

theorem Pool.composed_length (h : q.wf = true) : (q.composed bytes).bufs.length = q.bufs.length + 1 := by
  rw [Pool.composed, Pool.modify_length, Pool.take_length h]

theorem Pool.composed_get? (h : q.wf = true) :
    (q.composed bytes).get? q.take.1 = some ⟨1, bytes, false⟩ := by
  rw [Pool.composed, Pool.get?_modify, if_pos rfl, (Pool.get?_take h _).2, if_pos rfl]
  rfl

/-- The composer's hold ends on a frame that an entry holds: the buffer stays, with count 1. -/
theorem Pool.composed_held (h : q.wf = true) (hf : 0 < q.free) :
    (((q.composed bytes).addHold q.take.1).release q.take.1).get? q.take.1 = some ⟨1, bytes, false⟩ ∧
      (((q.composed bytes).addHold q.take.1).release q.take.1).free + 1 = q.free := by
  have hheld : ((q.composed bytes).addHold q.take.1).get? q.take.1 = some ⟨2, bytes, false⟩ := by
    rw [Pool.addHold, Pool.get?_modify, if_pos rfl, Pool.composed_get? bytes h]
    rfl
  have hwf := Pool.addHold_wf (i := q.take.1) (Pool.composed_wf bytes h hf)
  constructor
  · rw [Pool.get?_release hwf, if_pos rfl, hheld]
    rfl
  · have hlen := Pool.release_length_eq hwf hheld
    have hadd := Pool.modify_length (q.composed bytes) q.take.1 fun b => { b with refs := b.refs + 1 }
    rw [Pool.composed_length bytes h] at hadd
    simp only [Pool.addHold] at hlen ⊢
    unfold Pool.free at hf ⊢
    simp at hlen
    omega

/-- The composer's hold ends on a frame that no entry holds: the buffer returns. -/
theorem Pool.composed_dropped (h : q.wf = true) (hf : 0 < q.free) :
    ((q.composed bytes).release q.take.1).free = q.free := by
  have hlen := Pool.release_length_eq (Pool.composed_wf bytes h hf) (Pool.composed_get? bytes h)
  rw [Pool.composed_length bytes h] at hlen
  simp at hlen
  unfold Pool.free
  omega

end Composed

/-! ### LOCAL entries -/

/-- A composed frame whose entry joins the tap BULK queue (R93, R183). -/
theorem sendLocal_joins {s : State} (hd : s.isDown .tap = false) (hl : (s.eg .tap).bulk.length < 96) (buf : Nat)
    (c : List Byte) (r : Bool) : sendLocal buf c r s =
      { s.setEg .tap { s.eg .tap with
          bulk := (s.eg .tap).bulk ++ [⟨buf, .localFrame r, s.clock.timerUnits⟩] } with
        pool := ((s.pool.modify buf fun b =>
          { b with bytes := pad60 c, hasFcs := false }).addHold buf).release buf } := by
  obtain ⟨h, -⟩ | ⟨-, h, -⟩ | ⟨-, -, h⟩ :=
    enqueue_cases .tap .bulk buf (.localFrame r) (fillBuffer buf (pad60 c) false s)
  · exact absurd (hd.symm.trans h) nofun
  · exact absurd hl (Nat.not_lt.mpr h)
  · rw [sendLocal, h]
    rfl

/-- A composed frame whose entry is refused by a DOWN tap port or dropped by a full queue: the entry has ended (R93). -/
theorem sendLocal_refused {s : State} (h : ¬ (s.isDown .tap = false ∧ (s.eg .tap).bulk.length < 96)) (buf : Nat)
    (c : List Byte) (r : Bool) : ∃ counters, sendLocal buf c r s =
      { s.setEg .tap { s.eg .tap with counters := counters } with
        pool := (s.pool.modify buf fun b => { b with bytes := pad60 c, hasFcs := false }).release buf
        report := { s.report with restartDue := s.report.restartDue || r } } := by
  have hmark : (Mark.localFrame r == .localFrame true) = r := by cases r <;> rfl
  obtain ⟨-, he⟩ | ⟨-, -, he⟩ | ⟨hd, hl, -⟩ :=
    enqueue_cases .tap .bulk buf (.localFrame r) (fillBuffer buf (pad60 c) false s)
  · rw [sendLocal, he, entryEnded_eq, hmark]
    exact ⟨_, rfl⟩
  · rw [sendLocal, he, entryEnded_eq, hmark]
    exact ⟨_, rfl⟩
  · exact absurd ⟨hd, hl⟩ h

/-! ### The reply of the head -/

/-- The queue after the reply of its head. -/
def repliedQueue (k : Command) (rest : List Command) : List Command :=
  if k.code = 5 then { k with replied := true } :: rest else rest

theorem headReplied_eq {s : State} {k : Command} {rest : List Command} (hq : s.report.queue = k :: rest) :
    headReplied s = { s with report := { s.report with queue := repliedQueue k rest } } := by
  unfold headReplied repliedQueue
  rw [hq]
  dsimp only
  split <;> rfl

section Reply
variable {s : State} {k : Command} {rest : List Command} {r : CommandResult}

theorem composeReply_eq (hq : s.report.queue = k :: rest) (hr : k.result = some r) (hk : k.replied = false) :
    composeReply s = composeLocal (replyContent k r) (k.code == 5)
      (fun t => (headReplied t).countReport (ReportCounters.result r)) s := by
  unfold composeReply
  rw [hq]
  dsimp only
  rw [hr]
  dsimp only
  rw [hk]
  rfl

/-- With a buffer to take, the reply of the head is sent and the head replied (R183). -/
theorem composeReply_sent (hq : s.report.queue = k :: rest) (hr : k.result = some r) (hk : k.replied = false)
    (hf : 49 ≤ s.free) :
    let u : State := { s with pool := s.pool.take.2 }
    composeReply s = (headReplied (sendLocal s.pool.take.1 (replyContent k r u) (k.code == 5) u)).countReport
      (ReportCounters.result r) := by
  have htake : generatorTake .bulk s = (some s.pool.take.1, { s with pool := s.pool.take.2 }) := if_pos hf
  rw [composeReply_eq hq hr hk, composeLocal, htake]

/-- Refused a buffer, the reply waits and the hold restarts (R91, R186). -/
theorem composeReply_refused (hq : s.report.queue = k :: rest) (hr : k.result = some r) (hk : k.replied = false)
    (hf : s.free < 49) :
    composeReply s = { s with
      pool := { s.pool with refused := raise s.pool.refused }
      report := { s.report with hold := some ⟨s.clock.timerUnits, 1000⟩ } } := by
  have htake : generatorTake .bulk s = (none, { s with pool := { s.pool with refused := raise s.pool.refused } }) :=
    if_neg (Nat.not_le.mpr hf)
  rw [composeReply_eq hq hr hk, composeLocal, htake]
  rfl

/-- A reply whose entry joins the tap BULK queue (R183). -/
theorem composeReply_joins (hq : s.report.queue = k :: rest) (hr : k.result = some r) (hk : k.replied = false)
    (hf : 49 ≤ s.free) (hd : s.isDown .tap = false) (hl : (s.eg .tap).bulk.length < 96) :
    let bytes := pad60 (replyContent k r { s with pool := s.pool.take.2 })
    composeReply s =
      { s.setEg .tap { s.eg .tap with
          bulk := (s.eg .tap).bulk ++ [⟨s.pool.take.1, .localFrame (k.code == 5), s.clock.timerUnits⟩] } with
        pool := ((s.pool.composed bytes).addHold s.pool.take.1).release s.pool.take.1
        report := { s.report with queue := repliedQueue k rest, counters := s.report.counters.result r } } := by
  intro bytes
  rw [composeReply_sent hq hr hk hf, sendLocal_joins (s := { s with pool := s.pool.take.2 }) hd hl,
    headReplied_eq (k := k) (rest := rest) (by exact hq)]
  rfl

/-- A reply whose entry is refused or dropped has ended (R93, R97). -/
theorem composeReply_dropped (hq : s.report.queue = k :: rest) (hr : k.result = some r) (hk : k.replied = false)
    (hf : 49 ≤ s.free) (hj : ¬ (s.isDown .tap = false ∧ (s.eg .tap).bulk.length < 96)) :
    let bytes := pad60 (replyContent k r { s with pool := s.pool.take.2 })
    ∃ counters, composeReply s =
      { s.setEg .tap { s.eg .tap with counters := counters } with
        pool := (s.pool.composed bytes).release s.pool.take.1
        report := { s.report with
          queue := repliedQueue k rest
          counters := s.report.counters.result r
          restartDue := s.report.restartDue || k.code == 5 } } := by
  intro bytes
  obtain ⟨counters, hsend⟩ := sendLocal_refused (s := { s with pool := s.pool.take.2 }) hj s.pool.take.1
    (replyContent k r { s with pool := s.pool.take.2 }) (k.code == 5)
  refine ⟨counters, ?_⟩
  rw [composeReply_sent hq hr hk hf, hsend, headReplied_eq (k := k) (rest := rest) (by exact hq)]
  rfl

/-- The counter that a result raises (R183, R190). -/
theorem ReportCounters.result_eq (r : CommandResult) (c : ReportCounters) : c.result r =
    match r with
    | .done => { c with done := raise c.done }
    | .busy => { c with busy := raise c.busy }
    | .badPage => { c with badPage := raise c.badPage }
    | .badCommand => { c with badCommand := raise c.badCommand } := by
  cases r <;> rfl

end Reply

/-! ### Carrying out the head -/

/-- The head, not carried out yet and of a code of this command, takes its result, and its reply is composed (R182). -/
theorem carryOut_eq {s : State} {k : Command} {rest : List Command} {code : Byte → Bool} {effect : State → State}
    {result : State → CommandResult} (hq : s.report.queue = k :: rest) (hr : k.result = none)
    (hc : code k.code = true) (he : (effect s).report.queue = s.report.queue) :
    carryOut code effect result s = .next (settle (composeReply { effect s with
      report := { (effect s).report with queue := { k with result := some (result s) } :: rest } })) := by
  have hhead : s.headIs code = true := by simp [State.headIs, hq, hc, hr]
  simp only [carryOut, finish, hhead, if_true, fixResult, he, hq]

theorem exec_report (s : State) : exec .report s = carryOut (fun c => c == 1) id reportResult s := rfl

theorem exec_zero (s : State) : exec .zero s = carryOut (fun c => c == 4) zeroCounters (fun _ => .done) s := rfl

theorem exec_restart (s : State) : exec .restart s = carryOut (fun c => c == 5) id (fun _ => .done) s := rfl

theorem exec_badCommand (s : State) : exec .badCommand s = carryOut isOtherCode id (fun _ => .badCommand) s := rfl

theorem isOtherCode_iff (c : Byte) : isOtherCode c = true ↔ c = 0 ∨ 6 ≤ c.toNat := by
  simp [isOtherCode, Nat.succ_le_iff]

/-! ### ZERO -/

theorem dir_zeroCounters (p : RingPort) (s : State) : (zeroCounters s).dir p = (s.dir p).zeroed := by
  cases p <;> rfl

theorem record_zeroCounters (n : Nat) (s : State) : (zeroCounters s).record n = (s.record n).zeroed := by
  simp only [State.record, zeroCounters, Vector.getElem?_map]
  cases s.sources[n - 1]? <;> rfl

theorem slot_zeroCounters (n : Nat) (s : State) : (zeroCounters s).slot n = (s.slot n).zeroed := by
  simp only [State.slot, zeroCounters, Vector.getElem?_map]
  cases s.slots[n]? <;> rfl

end Sys2Proof.Machine

open Sys2Proof Sys2Proof.Machine

/-- Settles O58: a reply is sent, ended at once or refused its buffer, and each command carries its head out. -/
theorem commandsAreAnswered : Obligations.CommandsAreAnswered := by
  unfold Obligations.CommandsAreAnswered
  intro reply
  refine ⟨?_, ?_⟩
  · intro k rest r s hq hr hk hwf t joins content
    refine ⟨fun hf => ?_, composeReply_refused hq hr hk⟩
    have hcontent : pad60 (replyContent k r { s with pool := s.pool.take.2 }) =
        content ++ zeros (60 - content.length) := by cases r <;> rfl
    have hfree : 0 < s.pool.free := lt_of_lt_of_le (by decide) hf
    by_cases hj : joins
    · obtain ⟨hd, hl⟩ := hj
      have ht : t = _ := composeReply_joins hq hr hk hf hd hl
      obtain ⟨hget, hfree'⟩ := Pool.composed_held (content ++ zeros (60 - content.length)) hwf hfree
      have hdue : (s.isDown .tap || decide (96 ≤ (s.eg .tap).bulk.length)) = false := by simp [hd, hl]
      rw [ht, hcontent, hdue]
      refine ⟨?_, fun _ => ⟨hfree', ?_, ?_⟩, fun hn => absurd ⟨hd, hl⟩ hn, ?_⟩
      · rw [ReportCounters.result_eq, Bool.and_false, Bool.or_false]
        rfl
      · rfl
      · exact congrArg (·.getD ⟨0, [], false⟩) hget
      · exact ⟨rfl, rfl, rfl, rfl, rfl, rfl, rfl, rfl, rfl, rfl, rfl, rfl, rfl⟩
    · obtain ⟨counters, hdropped⟩ := composeReply_dropped hq hr hk hf hj
      have ht : t = _ := hdropped
      have hdue : (s.isDown .tap || decide (96 ≤ (s.eg .tap).bulk.length)) = true := by
        simpa [joins, or_iff_not_imp_left] using hj
      rw [ht, hdue]
      refine ⟨?_, fun h => absurd h hj, fun _ => ⟨Pool.composed_dropped _ hwf hfree, rfl⟩, ?_⟩
      · rw [ReportCounters.result_eq, Bool.and_true]
        rfl
      · exact ⟨rfl, rfl, rfl, rfl, rfl, rfl, rfl, rfl, rfl, rfl, rfl, rfl, rfl⟩
  · intro k rest s hq hr answered lane
    refine ⟨?_, ?_, ?_, ?_, ?_⟩
    · intro hc hp
      rw [exec_report, carryOut_eq hq hr (by simp [hc]) rfl]
      simp only [reportResult, hq, if_pos hp]
      rfl
    · intro hc hp
      rw [exec_report, carryOut_eq hq hr (by simp [hc]) rfl]
      simp only [reportResult, hq, if_neg (Nat.not_le.mpr hp)]
      rfl
    · intro hc
      rw [exec_restart, carryOut_eq hq hr (by simp [hc]) rfl]
      rfl
    · intro hc
      rw [exec_badCommand, carryOut_eq hq hr ((isOtherCode_iff _).mpr hc) rfl]
      rfl
    · intro hc
      refine ⟨zeroCounters s, ?_, rfl, rfl, rfl, rfl, rfl, rfl, rfl, ?_, ?_, ?_, ?_, rfl, rfl, rfl, rfl, rfl, rfl, rfl⟩
      · rw [exec_zero, carryOut_eq hq hr (by simp [hc]) rfl]
      · exact fun p => ⟨port_zeroCounters p s, eg_zeroCounters p s⟩
      · exact fun p => dir_zeroCounters p s
      · exact fun n _ _ => record_zeroCounters n s
      · exact fun i _ => slot_zeroCounters i s
end

section
/-! ## Trailers, roll entries and shaped frames on the wire (R7, R20, R21, R98 to R101, R191 to R193) -/

namespace Sys2Proof.Machine

/-! ### Multi-byte fields (R191) -/

@[simp] theorem beBytes_length (n x : Nat) : (beBytes n x).length = n := by
  induction n with
  | zero => rfl
  | succ n ih => simp [beBytes, ih]

/-- The bytes of a number spell it back, modulo what they hold. -/
theorem beNat_beBytes (n x : Nat) : beNat (beBytes n x) = x % 256 ^ n := by
  have key : ∀ a, (beBytes n x).foldl (fun a b => 256 * a + b.toNat) a = a * 256 ^ n + x % 256 ^ n := by
    induction n with
    | zero => intro a; simp [beBytes, Nat.mod_one]
    | succ n ih =>
      intro a
      have hbyte : (BitVec.ofNat 8 (x >>> (8 * n))).toNat = x / 256 ^ n % 256 := by
        simp [Nat.shiftRight_eq_div_pow, pow_mul]
      rw [beBytes, List.foldl_cons, ih, hbyte, Nat.mod_pow_succ]
      ring
  exact (key 0).trans (by simp)

theorem fieldAt_append {i n : Nat} {before field : List Byte} (hi : before.length = i) (hn : field.length = n)
    (after : List Byte) : fieldAt (before ++ field ++ after) i n = beNat field := by
  rw [fieldAt, List.append_assoc, List.drop_left' hi, List.take_left' hn]

theorem byteAt_append (before rest : List Byte) (i : Nat) :
    byteAt (before ++ rest) (before.length + i) = byteAt rest i := by
  simp [byteAt, List.getD_eq_getElem?_getD, List.getElem?_append_right]

/-! ### Roll entries (R193) -/

@[simp] theorem RingState.decode_code (r : RingState) : ringStateOfCode r.code = r := by cases r <;> rfl

/-- The four port flags of a roll entry stand apart in their byte. -/
theorem portFlags_bits : ∀ eastUp westUp eastDegraded westDegraded : Bool,
    let b := flagByte eastUp <<< 7 ||| flagByte westUp <<< 6 ||| flagByte eastDegraded <<< 5 |||
      flagByte westDegraded <<< 4
    b.getLsbD 7 = eastUp ∧ b.getLsbD 6 = westUp ∧ b.getLsbD 5 = eastDegraded ∧ b.getLsbD 4 = westDegraded := by
  decide

theorem rollEntryAt_encode (r : RollEntry) (before after : List Byte) :
    rollEntryAt (before ++ r.encode ++ after) before.length = r := by
  obtain ⟨hEast, hWest, hEastDeg, hWestDeg⟩ := portFlags_bits r.eastUp r.westUp r.eastDegraded r.westDegraded
  have hbyte (i : Nat) : byteAt (before ++ r.encode ++ after) (before.length + i) = byteAt (r.encode ++ after) i := by
    rw [List.append_assoc, byteAt_append]
  have hread : rollEntryAt (before ++ r.encode ++ after) before.length = rollEntryAt (r.encode ++ after) 0 := by
    have h0 := hbyte 0
    rw [Nat.add_zero] at h0
    simp only [rollEntryAt, hbyte, h0, Nat.zero_add]
  rw [hread]
  simp only [rollEntryAt, RollEntry.encode, byteAt, List.cons_append, List.nil_append, List.getD_cons_zero,
    List.getD_cons_succ, hEast, hWest, hEastDeg, hWestDeg, RingState.decode_code]

/-! ### Path trailers (R20, R21, R192) -/

theorem Trailer.fields_length (t : Trailer) : t.fields.length = 5 := by simp [Trailer.fields]

@[simp] theorem Trailer.encode_length (t : Trailer) : t.encode.length = 6 := by
  simp [Trailer.encode, Trailer.fields_length]

theorem Lane.read_bit (x : Lane) : (if x.bit.getLsbD 0 then Lane.w else Lane.e) = x := by cases x <;> rfl

theorem Trailer.seq_encode (t : Trailer) : fieldAt t.encode 0 2 = t.seq.toNat := by
  have hfield : fieldAt t.encode 0 2 = beNat (beBytes 2 t.seq.toNat) := by
    simpa [Trailer.encode, Trailer.fields] using
      fieldAt_append (before := []) rfl (beBytes_length 2 t.seq.toNat) (t.encode.drop 2)
  rw [hfield, beNat_beBytes]
  exact Nat.mod_eq_of_lt t.seq.isLt

@[simp] theorem Trailer.parse_encode (t : Trailer) : Trailer.parse t.encode = t := by
  have h2 : byteAt t.encode 2 = t.source ++ t.spare := rfl
  have h3 : byteAt t.encode 3 = t.epoch ++ t.kind ++ t.lane.bit := rfl
  have h4 : byteAt t.encode 4 = t.hops ++ t.cls := rfl
  have hepoch : (t.epoch ++ t.kind ++ t.lane.bit).extractLsb' 4 4 = t.epoch := by
    rw [BitVec.extractLsb'_append_eq_of_le (by decide)]
    exact BitVec.extractLsb'_append_eq_left
  have hkind : (t.epoch ++ t.kind ++ t.lane.bit).extractLsb' 1 3 = t.kind := by
    rw [BitVec.extractLsb'_append_eq_of_le (by decide)]
    exact BitVec.extractLsb'_append_eq_right
  have hlane : (if (t.epoch ++ t.kind ++ t.lane.bit).getLsbD 0 then Lane.w else Lane.e) = t.lane := by
    rw [BitVec.getLsbD_append, if_pos Nat.one_pos, Lane.read_bit]
  simp only [Trailer.parse, seq_encode, h2, h3, h4, hepoch, hkind, hlane, BitVec.ofNat_toNat, BitVec.setWidth_eq,
    BitVec.extractLsb'_append_eq_left, BitVec.extractLsb'_append_eq_right]

@[simp] theorem trailerCheckOk_encode (t : Trailer) : trailerCheckOk t.encode = true := by
  have hcheck : byteAt t.encode 5 = crc8 t.fields := rfl
  rw [trailerCheckOk, hcheck, Trailer.encode, List.take_left' t.fields_length, beq_self_eq_true]

/-! ### The frame check sequence (R7) -/

@[simp] theorem fcsBytes_length (bs : List Byte) : (fcsBytes bs).length = 4 := by
  rw [fcsBytes, List.length_reverse, beBytes_length]

/-- A frame followed by its FCS passes the receiver's check. -/
@[simp] theorem fcsOk_withFcs (bs : List Byte) : fcsOk (withFcs bs) = true := by
  have hlen : (withFcs bs).length - 4 = bs.length := by simp [withFcs]
  rw [fcsOk, hlen, withFcs, List.drop_left, List.take_left, beq_self_eq_true]

/-! ### Ring frames as a receiver holds them (R192) -/

section Read
variable (n : Nat) (body : List Byte) (t : Trailer)

@[simp] theorem Buffer.data_withFcs (bs : List Byte) : (Buffer.mk n (withFcs bs) true).data = bs := by
  simp [Buffer.data, withFcs]

@[simp] theorem Buffer.body_withFcs : (Buffer.mk n (withFcs (body ++ t.encode)) true).body = body := by
  simp [Buffer.body, withFcs]

theorem Buffer.body_plain : (Buffer.mk n (body ++ t.encode) false).body = body := by
  simp [Buffer.body]

@[simp] theorem Buffer.trailerBytes_withFcs :
    (Buffer.mk n (withFcs (body ++ t.encode)) true).trailerBytes = t.encode := by
  rw [Buffer.trailerBytes, data_withFcs, body_withFcs, List.drop_left]

@[simp] theorem Buffer.trailer_withFcs : (Buffer.mk n (withFcs (body ++ t.encode)) true).trailer = t := by
  rw [Buffer.trailer, trailerBytes_withFcs, Trailer.parse_encode]

theorem Buffer.trailer_plain : (Buffer.mk n (body ++ t.encode) false).trailer = t := by
  have hdata : (Buffer.mk n (body ++ t.encode) false).data = body ++ t.encode := by simp [Buffer.data]
  rw [Buffer.trailer, Buffer.trailerBytes, hdata, body_plain, List.drop_left, Trailer.parse_encode]

end Read

/-! ### The trailer writer's frames (R98 to R101) -/

section Shaped
variable (p : RingPort) (b : Buffer) (now : Stamp)

theorem shape_ring (m : Mark) : shape p.port m b now = shapeRing p m b now := by
  rw [shape, RingPort.port_ring]

theorem shape_forwarded : shape p.port .forwarded b now = withFcs (b.body ++ b.trailer.forwarded.encode) :=
  shape_ring ..

theorem shape_originated (kind : Kind) (cls : Class) (seq : Seq) (epoch : BitVec 4) (source : BitVec 6) :
    shape p.port (.originated kind cls seq epoch source) b now =
      withFcs ((if kind = .time then writeCarriedTime now b.data else b.data) ++
        (originTrailer p kind cls seq epoch source).encode) :=
  shape_ring ..

/-- Node time takes the place of the carried time, and reads back as it was (R100, R193). -/
theorem writeCarriedTime_reads {data : List Byte} (h : 18 ≤ data.length) :
    (writeCarriedTime now data).length = data.length ∧ carriedTime (writeCarriedTime now data) = now := by
  constructor
  · simp only [writeCarriedTime, List.length_append, List.length_take, List.length_drop, beBytes_length]
    omega
  · have hfield : fieldAt (writeCarriedTime now data) 14 4 = now.toNat := by
      rw [writeCarriedTime, fieldAt_append (by simp; omega) (beBytes_length 4 _), beNat_beBytes]
      exact Nat.mod_eq_of_lt now.isLt
    rw [carriedTime, hfield, BitVec.ofNat_toNat, BitVec.setWidth_eq]

end Shaped

end Sys2Proof.Machine

open Sys2Proof Sys2Proof.Machine

/-- Settles O16: an encoded roll entry reads back wherever it stands, and a trailer reads back from a frame's end, with
an FCS behind it or without. -/
theorem trailersReadBackAsWritten : Obligations.TrailersReadBackAsWritten :=
  ⟨fun r before after => ⟨rfl, rollEntryAt_encode r before after⟩, fun t =>
    ⟨t.encode_length, t.parse_encode, trailerCheckOk_encode t, fun body n =>
      ⟨Buffer.trailer_withFcs n body t, Buffer.body_withFcs n body t, Buffer.trailer_plain n body t,
        fcsOk_withFcs _⟩⟩⟩

/-- Settles O36: each ring copy is a body, an encoded trailer and their FCS, which the next node reads back. -/
theorem copiesArriveAsShaped : Obligations.CopiesArriveAsShaped := by
  intro p b now
  refine ⟨fun _ => ?_, fun kind cls seq epoch source => ?_, fun _ => ⟨_, rfl, rfl⟩⟩
  · rw [shape_forwarded]
    refine ⟨fcsOk_withFcs _, ?_, Buffer.body_withFcs .., Buffer.trailer_withFcs ..⟩
    rw [Buffer.trailerBytes_withFcs, trailerCheckOk_encode]
  · rw [shape_originated]
    intro f
    have hbody : (Buffer.mk 1 f true).body = if kind = .time then writeCarriedTime now b.data else b.data :=
      Buffer.body_withFcs ..
    refine ⟨fcsOk_withFcs _, ?_, Buffer.trailer_withFcs .., fun hk => ?_, fun hk hlen => ?_⟩
    · rw [Buffer.trailerBytes_withFcs, trailerCheckOk_encode]
    · rw [hbody, if_neg hk]
    · rw [hbody, if_pos hk]
      exact writeCarriedTime_reads now hlen
end

section
/-! ## Origination (R23 to R29, R93) -/

namespace Sys2Proof.Machine

/-! ### The class of a tap frame (R24, R25) -/

section Classified
variable {map : List (BitVec 16 × Class)} {f : List Byte}

/-- The first class map entry of the frame's type gives the class (R24). -/
theorem classify_mapped {before after : List (BitVec 16 × Class)} {c : Class}
    (hmap : map = before ++ (typeField f, c) :: after) (hfirst : ∀ e ∈ before, e.1 ≠ typeField f) :
    classify map f = c := by
  have hfind : (map.find? fun e => e.1 == typeField f) = some (typeField f, c) :=
    List.find?_eq_some_iff_append.mpr ⟨beq_self_eq_true _, before, after, hmap, by simpa using hfirst⟩
  simp only [classify, hfind]

/-- Without an entry of the frame's type its priority tag gives the class (R25). -/
theorem classify_unmapped (hnone : ∀ e ∈ map, e.1 ≠ typeField f) : classify map f =
    if tagged f then if 5 ≤ tagPriority f then .urgent else if tagPriority f = 4 then .stream else .bulk
    else .bulk := by
  have hfind : (map.find? fun e => e.1 == typeField f) = none := by simpa using hnone
  simp only [classify, hfind]

end Classified

/-! ### Entries on the ring ports (R93) -/

section Joined
variable {p : Port} {c : Class} {s : State} (b : Nat) (m : Mark)

/-- An entry joins the tail of a queue with room. -/
theorem enqueue_joins (hd : s.isDown p = false) (hl : ((s.eg p).queue c).length < c.depth) :
    enqueue p c b m s =
      { s.setEg p ((s.eg p).setQueue c ((s.eg p).queue c ++ [⟨b, m, s.clock.timerUnits⟩])) with
        pool := s.pool.addHold b } := by
  obtain ⟨h, -⟩ | ⟨-, h, -⟩ | ⟨-, -, h⟩ := enqueue_cases p c b m s
  · exact absurd (hd.symm.trans h) nofun
  · exact absurd hl (Nat.not_lt.mpr h)
  · exact h

theorem enqueue_eg_joins (hd : s.isDown p = false) (hl : ((s.eg p).queue c).length < c.depth) :
    (enqueue p c b m s).eg p = (s.eg p).setQueue c ((s.eg p).queue c ++ [⟨b, m, s.clock.timerUnits⟩]) := by
  rw [enqueue_joins b m hd hl]
  exact (eg_setEg ..).trans (if_pos rfl)

/-- A generator's entry joins the queue of each ring port that it sends on. -/
theorem enqueueRing_joins {east west : Bool} (hsends : p = .east ∧ east = true ∨ p = .west ∧ west = true)
    (hd : s.isDown p = false) (hl : ((s.eg p).queue c).length < c.depth) :
    (enqueueRing east west c b m s).eg p =
      (s.eg p).setQueue c ((s.eg p).queue c ++ [⟨b, m, s.clock.timerUnits⟩]) := by
  obtain ⟨rfl, rfl⟩ | ⟨rfl, rfl⟩ := hsends
  · have heast := enqueue_eg_joins b m hd hl
    cases west
    · exact heast
    · exact (enqueue_eg_of_ne (by decide) c b m _).trans heast
  · cases east
    · exact enqueue_eg_joins b m hd hl
    · have hsame := SameBut.enqueue .east c b m s
      have hwest : (enqueue .east c b m s).eg .west = s.eg .west := enqueue_eg_of_ne (by decide) c b m s
      refine (enqueue_eg_joins b m ((hsame.isDown .west).trans hd) (by rw [hwest]; exact hl)).trans ?_
      rw [hwest, hsame.clock]

end Joined

/-! ### The lane tagger (R26 to R29) -/

theorem tapPath_admitted {f : List Byte} {s : State} (hf : destination f ≠ s.cfg.control) (hm : s.member = true)
    (ha : (classify s.cfg.classMap f).threshold ≤ s.free) (b : Nat) :
    tapPath b f s = originate b (classify s.cfg.classMap f) s := by
  have hadm : s.admits (classify s.cfg.classMap f) = true := decide_eq_true ha
  simp [tapPath, hf, hm, hadm]

/-- The lane tagger after a frame that went out, of both ring ports or of one (R26, R28). -/
def Tagger.sent (g : Tagger) (both : Bool) : Tagger :=
  { g with
    seq := g.seq + 1
    originated := raise g.originated
    single := if both then g.single else raise g.single }

section Originated
variable (b : Nat) (c : Class) {s : State}

/-- With a ring port not DOWN a traffic frame takes a number and goes out of each such port (R28). -/
theorem originate_sent (h : s.isDown .east = false ∨ s.isDown .west = false) :
    originate b c s =
      enqueueRing (!s.isDown .east) (!s.isDown .west) c b
        (.originated .data c s.tagger.seq s.loader.ownEpoch s.node)
        { s with tagger := s.tagger.sent (!s.isDown .east && !s.isDown .west) } := by
  have hopen : (!s.isDown .east || !s.isDown .west) = true := by simpa using h
  simp only [originate, hopen, if_true, takeNumber, Tagger.sent]

/-- With both ring ports DOWN it is released, and ISOLATED rises (R28). -/
theorem originate_isolated (he : s.isDown .east = true) (hw : s.isDown .west = true) :
    originate b c s = release b { s with tagger := { s.tagger with isolated := raise s.tagger.isolated } } := by
  simp [originate, he, hw]

theorem originate_cases (s : State) :
    (s.isDown .east = true ∧ s.isDown .west = true) ∨ (s.isDown .east = false ∨ s.isDown .west = false) := by
  cases s.isDown .east <;> cases s.isDown .west <;> simp

/-- Origination concerns the lane tagger, the egress schedulers, the pool and the report unit. -/
theorem originate_sameBut (s : State) :
    (∃ g, SameBut { s with tagger := g } (originate b c s)) ∧ (originate b c s).roll = s.roll := by
  obtain ⟨he, hw⟩ | h := originate_cases s
  · rw [originate_isolated b c he hw]
    exact ⟨⟨_, .release ..⟩, rfl⟩
  · rw [originate_sent b c h]
    exact ⟨⟨_, .enqueueRing ..⟩, enqueueRing_roll ..⟩

theorem originate_tagger_sent (h : s.isDown .east = false ∨ s.isDown .west = false) :
    (originate b c s).tagger = s.tagger.sent (!s.isDown .east && !s.isDown .west) := by
  rw [originate_sent b c h]
  exact (SameBut.enqueueRing ..).tagger

theorem originate_eg_tap (s : State) : (originate b c s).eg .tap = s.eg .tap := by
  obtain ⟨he, hw⟩ | h := originate_cases s
  · rw [originate_isolated b c he hw]; rfl
  · rw [originate_sent b c h]
    exact enqueueRing_eg (q := .tap) nofun nofun ..

/-- The entry of an originated frame joins the class queue of each ring port that is not DOWN (R28). -/
theorem originate_eg (q : RingPort)
    (hroom : s.isDown q.port = false → ((s.eg q.port).queue c).length < c.depth) :
    (originate b c s).eg q.port =
      if s.isDown q.port then s.eg q.port
      else (s.eg q.port).setQueue c ((s.eg q.port).queue c ++
        [⟨b, .originated .data c s.tagger.seq s.loader.ownEpoch s.node, s.clock.timerUnits⟩]) := by
  obtain ⟨he, hw⟩ | h := originate_cases s
  · have hq : s.isDown q.port = true := by cases q <;> assumption
    rw [originate_isolated b c he hw, if_pos hq]
    rfl
  · rw [originate_sent b c h]
    by_cases hq : s.isDown q.port = true
    · rw [if_pos hq]
      exact enqueueRing_eg (fun hp => by simp [← hp, hq]) (fun hp => by simp [← hp, hq]) ..
    · rw [if_neg hq]
      rw [Bool.not_eq_true] at hq
      refine enqueueRing_joins b _ ?_ hq (hroom hq)
      cases q
      · exact .inl ⟨rfl, congrArg not hq⟩
      · exact .inr ⟨rfl, congrArg not hq⟩

end Originated

end Sys2Proof.Machine

open Sys2Proof Sys2Proof.Machine

/-- Settles O15: the class map decides where it has an entry of the frame's type, and else the tag. -/
theorem tapFramesAreClassified : Obligations.TapFramesAreClassified := by
  intro map f
  refine ⟨fun _ _ _ => classify_mapped, fun hnone => ?_⟩
  rw [classify_unmapped hnone]
  refine ⟨fun ht => ?_, fun ht hp => ?_, fun ht hp => ?_, fun ht hp => ?_⟩
  · simp [ht]
  · rw [if_pos ht, if_neg (by omega), if_neg (by omega)]
  · rw [if_pos ht, if_neg (by omega), if_pos hp]
  · rw [if_pos ht, if_pos hp]

/-- Settles O14: the stored frame comes to `originate`, whose effect on each part is said above by the states of the
two ring ports. -/
theorem tapTrafficIsOriginated : Obligations.TapTrafficIsOriginated := by
  intro b bytes steps s hr hmin hmax hsteps hfcs hm hc c x hfree heast hwest
  let u : State := afterStored .tap b bytes s
  have hfree' : c.threshold ≤ u.free := by
    simpa [u, afterStored, State.free, Pool.free, Pool.modify] using hfree
  have hpath : tapPath b bytes u = originate b c u := tapPath_admitted (s := u) hc hm hfree' b
  have hexec := exec_frameEnd_stored hr hmin hmax hsteps hfcs
  rw [handOn_tap, hpath] at hexec
  obtain ⟨⟨g, hsame⟩, hroll⟩ := originate_sameBut b c u
  have hport (q : Port) : (originate b c u).port q = u.port q := by simp only [State.port, hsame.ports]
  refine ⟨_, hexec, originate_eg b c .east heast, originate_eg b c .west hwest, originate_eg_tap b c u, ?_, ?_,
    congrArg PortUnit.rx (hport .tap), (congrArg PortUnit.ind (hport .tap)).trans rfl, hport .east, hport .west,
    hsame.commandIn, hsame.sources, hsame.slots, hsame.check, hroll⟩
  · have hsent (h : s.isDown .east = false ∨ s.isDown .west = false) :
        (originate b c u).tagger = s.tagger.sent (!s.isDown .east && !s.isDown .west) :=
      originate_tagger_sent (s := u) b c h
    cases he : s.isDown .east <;> cases hw : s.isDown .west <;> rw [he, hw] at hsent
    · exact hsent (.inl rfl)
    · exact hsent (.inl rfl)
    · exact hsent (.inr rfl)
    · rw [originate_isolated (s := u) b c he hw]
      rfl
  · intro he hw
    rw [originate_isolated (s := u) b c he hw]
    rfl
end

section
/-! ## Own DATA and TIME frames, and the clash hold (R31, R38 to R41) -/

namespace Sys2Proof.Machine

/-- An admitted own frame ends at stage 4, after the mark of a crossed copy (R36 to R38). -/
theorem filterFrame_own {p : RingPort} {h : Handed} {k : Kind} {s : State}
    (hk : ringKind (s.buffer h.buf) = some k) (hsrc : (s.buffer h.buf).trailer.source = s.node)
    (hfree : (admissionClass k (s.buffer h.buf).trailer).threshold ≤ s.free) :
    filterFrame p h s =
      ownFrame p h k (s.buffer h.buf) (crossedMark p (isCrossed p k (s.buffer h.buf)) s) := by
  have hadm : (crossedMark p (isCrossed p k (s.buffer h.buf)) s).admits
      (admissionClass k (s.buffer h.buf).trailer) = true := by
    rw [crossedMark_eq]
    exact decide_eq_true hfree
  have hnode : (crossedMark p (isCrossed p k (s.buffer h.buf)) s).node = s.node := by
    rw [crossedMark_eq]; rfl
  simp only [filterFrame_of_kind hk, hadm, hnode, hsrc, Bool.not_true, Bool.false_eq_true, if_false, if_true]

theorem inReturnWindow_iff (counter n : Seq) : inReturnWindow counter n = true ↔ (counter - n - 1).toNat ≤ 1023 :=
  decide_eq_true_iff

/-- The own-return window tells a return from a clash frame (R31, R39, R40). -/
theorem ownFrame_numbered {k : Kind} (hk : k = .data ∨ k = .time) (p : RingPort) (h : Handed) (b : Buffer)
    (s : State) : ownFrame p h k b s =
      if inReturnWindow s.tagger.seq b.trailer.seq then returnedFrame p h.buf s else clashFrame h.buf s := by
  obtain rfl | rfl := hk <;> rfl

section Marked
variable (p : RingPort) (c : Bool) (s : State)

theorem crossedMark_returned : ((crossedMark p c s).filter.counters.get p).returned =
    (s.filter.counters.get p).returned := by
  rw [crossedMark_filter]
  cases c
  · rfl
  · simp [State.countFilter]

theorem crossedMark_hold : (crossedMark p c s).filter.hold = s.filter.hold := by
  rw [crossedMark_filter]
  cases c <;> rfl

end Marked

/-- The clash hold's expiry with the indication set clears it and notes the clash item (R41). -/
theorem exec_clashHoldExpiry {s : State} (hd : s.clock.due s.filter.hold = true) (hc : s.filter.clash = true) :
    exec .clashHoldExpiry s =
      .next (settle (note .clash { s with filter := { s.filter with clash := false, hold := none } })) := by
  simp only [exec, execClashHoldExpiry, finish, hd, hc, noteIf, if_true]

theorem exec_clashHoldExpiry_of_not {s : State} (hd : s.clock.due s.filter.hold = false) :
    exec .clashHoldExpiry s = .next (settle s) := by
  simp [exec, execClashHoldExpiry, finish, hd]

end Sys2Proof.Machine

open Sys2Proof Sys2Proof.Machine

/-- Settles O19: the frame ends at stage 4 as a return or as a clash frame, after the mark of a crossed copy, which
leaves RETURNED and the clash. -/
theorem ownFramesReturnOrClash : Obligations.OwnFramesReturnOrClash := by
  refine ⟨?_, fun s => ⟨exec_clashHoldExpiry, exec_clashHoldExpiry_of_not⟩⟩
  intro p h rest k s hm hh hk hkind hsrc hfree
  let v : State := { s with handed := s.handed.set p rest }
  have hexec := exec_ringFilter hm hh
  have hframe : filterFrame p h v =
      ownFrame p h k (s.buffer h.buf) (crossedMark p (isCrossed p k (s.buffer h.buf)) v) :=
    filterFrame_own hk hsrc hfree
  rw [hframe, ownFrame_numbered hkind] at hexec
  have hmark := crossedMark_eq p (isCrossed p k (s.buffer h.buf)) v
  obtain ⟨hclash, hcount⟩ := crossedMark_clash p (isCrossed p k (s.buffer h.buf)) v
  have hhold := crossedMark_hold p (isCrossed p k (s.buffer h.buf)) v
  have hreturned := crossedMark_returned p (isCrossed p k (s.buffer h.buf)) v
  generalize crossedMark p (isCrossed p k (s.buffer h.buf)) v = u at *
  obtain ⟨hhanded, hpool, htagger, hclock, hrest⟩ :
      u.handed = s.handed.set p rest ∧ u.pool = s.pool ∧ u.tagger = s.tagger ∧ u.clock = s.clock ∧
        u.egress = s.egress ∧ u.sources = s.sources ∧ u.slots = s.slots ∧ u.rollIn = s.rollIn ∧
        u.check = s.check ∧ u.tagger = s.tagger ∧ u.time = s.time := by
    rw [hmark]
    exact ⟨rfl, rfl, rfl, rfl, rfl, rfl, rfl, rfl, rfl, rfl, rfl⟩
  rw [htagger] at hexec
  refine ⟨_, hexec, ?_⟩
  by_cases hin : (s.tagger.seq - (s.buffer h.buf).trailer.seq - 1).toNat ≤ 1023
  · rw [if_pos ((inReturnWindow_iff ..).mpr hin)]
    refine ⟨hhanded, congrArg (·.release h.buf) hpool, fun _ => ⟨?_, hclash, hhold, hcount⟩,
      fun hout => absurd hin (by omega), hrest⟩
    rw [← hreturned]
    simp [returnedFrame, State.countFilter]
  · obtain ⟨report, heq⟩ := clashFrame_eq h.buf u
    rw [if_neg (mt (inReturnWindow_iff ..).mp hin), heq]
    refine ⟨hhanded, congrArg (·.release h.buf) hpool, fun hyes => absurd hyes hin, fun _ =>
      ⟨hreturned, rfl, ?_, congrArg raise hcount⟩, hrest⟩
    exact congrArg (fun c : Clock => some (Timer.mk c.timerUnits 100000)) hclock
end

section
/-! ## Foreign frames (R35) -/

namespace Sys2Proof.Machine

theorem kindOfCode_eq_none_iff (k : BitVec 3) : kindOfCode k = none ↔ 4 ≤ k.toNat := by
  revert k
  decide

/-- What makes a ring frame foreign (R35). -/
theorem ringKind_eq_none_iff (b : Buffer) : ringKind b = none ↔
    trailerCheckOk b.trailerBytes = false ∨ b.trailer.source = 0 ∨ b.trailer.source = 63 ∨
      4 ≤ b.trailer.kind.toNat := by
  rw [← kindOfCode_eq_none_iff, ringKind]
  split
  · next hok =>
    obtain ⟨⟨hcheck, hzero⟩, hlast⟩ : (trailerCheckOk b.trailerBytes = true ∧ b.trailer.source ≠ 0) ∧
        b.trailer.source ≠ 63 := by simpa using hok
    simp only [hcheck, hzero, hlast, Bool.true_eq_false, false_or]
  · next hbad =>
    have hsome : trailerCheckOk b.trailerBytes = true → b.trailer.source ≠ 0 → b.trailer.source = 63 := by
      simpa using hbad
    refine iff_of_true rfl ?_
    cases hc : trailerCheckOk b.trailerBytes
    · exact .inl rfl
    · by_cases hz : b.trailer.source = 0
      · exact .inr (.inl hz)
      · exact .inr (.inr (.inl (hsome hc hz)))

theorem filterFrame_foreign {p : RingPort} {h : Handed} {s : State} (hk : ringKind (s.buffer h.buf) = none) :
    filterFrame p h s = foreignFrame p h.buf s := by
  simp only [filterFrame, hk]

/-! ### The ring filter's counters -/

section Counted
variable (p : RingPort) (f : FilterCounters → FilterCounters) (s : State)

@[simp] theorem countFilter_get_same :
    (s.countFilter p f).filter.counters.get p = f (s.filter.counters.get p) := by
  simp [State.countFilter]

@[simp] theorem countFilter_get_opposite :
    (s.countFilter p f).filter.counters.get p.opposite = s.filter.counters.get p.opposite := by
  simp [State.countFilter, RingPort.opposite_ne]

@[simp] theorem countFilter_clash : (s.countFilter p f).filter.clash = s.filter.clash := rfl

theorem countFilter_id : (s.countFilter p fun n => n) = s := by
  cases p <;> rfl

end Counted

/-- What a foreign frame changes (R35). -/
theorem foreignFrame_eq (p : RingPort) (b : Nat) (s : State) :
    let u := s.countFilter p fun k => { k with foreign := raise k.foreign }
    foreignFrame p b s =
      { u with
        ports := (indEvent p.port .foreign u).ports
        report := (indEvent p.port .foreign u).report
        pool := s.pool.release b } := by
  intro u
  rw [foreignFrame, indEvent_eq]
  rfl

theorem indEvent_of_down {p : Port} {s : State} (hd : s.isDown p = true) (k : IndEvent) : indEvent p k s = s :=
  if_pos hd

end Sys2Proof.Machine

open Sys2Proof Sys2Proof.Machine

/-- Settles O17: the frame has no kind, so it ends at stage 1, and the event at its port is that of R15. -/
theorem foreignFramesAreDiscarded : Obligations.ForeignFramesAreDiscarded := by
  intro p h rest s hm hh hforeign
  let v : State := { s with handed := s.handed.set p rest }
  let count (k : FilterCounters) : FilterCounters := { k with foreign := raise k.foreign }
  let u : State := v.countFilter p count
  have hframe : filterFrame p h v = foreignFrame p h.buf v :=
    filterFrame_foreign (s := v) ((ringKind_eq_none_iff _).mpr hforeign)
  have hexec := exec_ringFilter hm hh
  rw [hframe, foreignFrame_eq] at hexec
  refine ⟨_, hexec, rfl, rfl, countFilter_get_same p count v, fun hd => ?_, fun hd => ?_,
    rfl, rfl, rfl, rfl, rfl, rfl, rfl, rfl, rfl⟩
  · exact indEvent_port (s := u) hd .foreign
  · have hsame : (indEvent p.port .foreign u).port p.port = u.port p.port := by rw [indEvent_of_down (s := u) hd]
    exact hsame
end

section
/-! ## Peer frames (R36 to R38, R42 to R54) -/

namespace Sys2Proof.Machine

/-! ### What marks and notes leave -/

/-- Two states in which the same ports are DOWN and the timers of the ports and of the report unit run alike. -/
structure SameTimers (s t : State) : Prop where
  isDown : ∀ q, t.isDown q = s.isDown q
  window : ∀ q, (t.port q).window = (s.port q).window
  qual : ∀ q, (t.port q).qual = (s.port q).qual
  hold : t.report.hold = s.report.hold
  period : t.report.period = s.report.period

theorem SameTimers.of_parts {s t : State} (hp : t.ports = s.ports) (hr : t.report = s.report) : SameTimers s t := by
  constructor <;> simp [State.isDown, State.port, hp, hr]

theorem SameTimers.trans {s t u : State} (h : SameTimers s t) (g : SameTimers t u) : SameTimers s u :=
  ⟨fun q => (g.1 q).trans (h.1 q), fun q => (g.2 q).trans (h.2 q), fun q => (g.3 q).trans (h.3 q),
    g.4.trans h.4, g.5.trans h.5⟩

theorem SameTimers.note (i : Item) (s : State) : SameTimers s (note i s) := by
  obtain h | ⟨-, -, h⟩ | ⟨-, -, h⟩ := note_cases i s
  all_goals rw [h]; exact ⟨fun _ => rfl, fun _ => rfl, fun _ => rfl, rfl, rfl⟩

theorem SameTimers.noteIf (c : Bool) (i : Item) (s : State) : SameTimers s (noteIf c i s) := by
  cases c
  · exact .of_parts rfl rfl
  · exact .note i s

theorem SameTimers.setPort {p : Port} {u : PortUnit} {s : State} (hs : u.state = (s.port p).state)
    (hw : u.window = (s.port p).window) (hu : u.qual = (s.port p).qual) : SameTimers s (s.setPort p u) := by
  refine ⟨fun q => ?_, fun q => ?_, fun q => ?_, rfl, rfl⟩ <;> by_cases hq : q = p
  all_goals simp [State.isDown, hq, hs, hw, hu]

theorem SameTimers.indEvent (p : Port) (k : IndEvent) (s : State) : SameTimers s (indEvent p k s) := by
  unfold Machine.indEvent
  split
  · exact .of_parts rfl rfl
  · refine SameTimers.trans ?_ (.noteIf ..)
    exact .setPort rfl rfl rfl

theorem SameTimers.crossedMark (p : RingPort) (c : Bool) (s : State) : SameTimers s (crossedMark p c s) := by
  cases c
  · exact .of_parts rfl rfl
  · exact .trans (t := s.countFilter p _) (.of_parts rfl rfl) (.indEvent ..)

/-! ### The way to the dispatch -/

/-- The ring filter's counters after a frame that may be crossed or expired (R36, R42). -/
def FilterCounters.marked (crossed expired : Bool) (n : FilterCounters) : FilterCounters :=
  { n with
    crossed := if crossed then raise n.crossed else n.crossed
    expired := if expired then raise n.expired else n.expired }

theorem FilterCounters.marked_eq_ite {c e : Bool} {P Q : Prop} [Decidable P] [Decidable Q] (hc : c = true ↔ P)
    (he : e = true ↔ Q) (n : FilterCounters) : n.marked c e =
      { n with
        crossed := if P then raise n.crossed else n.crossed
        expired := if Q then raise n.expired else n.expired } := by
  simp only [marked, hc, he]

/-- The state in which a frame of kind `k` has passed the stages of crossed and expired copies (R36, R42). -/
def marked (p : RingPort) (k : Kind) (b : Buffer) (expired : Bool) (s : State) : State :=
  countExpired p expired (crossedMark p (isCrossed p k b) s)

theorem marked_sameTimers (p : RingPort) (k : Kind) (b : Buffer) (e : Bool) (s : State) :
    SameTimers s (marked p k b e s) := by
  refine (SameTimers.crossedMark p (isCrossed p k b) s).trans ?_
  cases e <;> exact .of_parts rfl rfl

/-- The marks change the ring filter's counters, a port unit and the report unit alone. -/
theorem marked_eq (p : RingPort) (k : Kind) (b : Buffer) (e : Bool) (s : State) :
    ∃ ports report, marked p k b e s =
      { s.countFilter p (FilterCounters.marked (isCrossed p k b) e) with ports := ports, report := report } := by
  have hcrossed : ∃ ports report, crossedMark p (isCrossed p k b) s =
      { s.countFilter p (FilterCounters.marked (isCrossed p k b) false) with ports := ports, report := report } := by
    refine ⟨(crossedMark p (isCrossed p k b) s).ports, (crossedMark p (isCrossed p k b) s).report,
      (crossedMark_eq p (isCrossed p k b) s).trans ?_⟩
    rw [crossedMark_filter]
    cases isCrossed p k b
    · rw [show FilterCounters.marked false false = fun n => n from rfl, countFilter_id]
      rfl
    · rfl
  obtain ⟨ports, report, heq⟩ := hcrossed
  refine ⟨ports, report, ?_⟩
  cases e
  · exact heq
  · rw [marked, heq]
    simp [countExpired, State.countFilter, FilterCounters.marked]

theorem isExpired_iff (t : Trailer) (s : State) : isExpired t s = true ↔ s.cfg.profile.hopLimit ≤ t.hops.toNat :=
  decide_eq_true_iff

theorem isCrossed_iff_of_ne_roll {k : Kind} (hk : k ≠ .roll) (p : RingPort) (b : Buffer) :
    isCrossed p k b = true ↔ b.trailer.lane.ownPort = p := by
  simp [isCrossed_iff, hk]

/-! ### Verdicts and stream watch -/

/-- The verdict on a frame's copy by the record of its source (R43, R58). -/
def judged (t : Trailer) (arrival : Stamp) (s : State) : Judged :=
  (s.record t.source.toNat).judge s.cfg.profile.streakLimit t.seq t.epoch t.lane arrival
    ⟨s.clock.timerUnits, s.cfg.profile.aging * 1000⟩

theorem requestVerdict_verdict (t : Trailer) (a : Stamp) (s : State) :
    (requestVerdict t a s).1 = (judged t a s).verdict := rfl

/-- The marks leave the verdict on the copy. -/
theorem judged_marked (p : RingPort) (k : Kind) (b : Buffer) (e : Bool) (t : Trailer) (a : Stamp) (s : State) :
    judged t a (marked p k b e s) = judged t a s := by
  obtain ⟨ports, report, hu⟩ := marked_eq p k b e s
  rw [hu]
  rfl

/-- A request changes the record of the source and the notes alone (R58, R81). -/
theorem requestVerdict_eq (t : Trailer) (a : Stamp) (s : State) : ∃ report, (requestVerdict t a s).2 =
    { s with
      sources := s.sources.setIfInBounds (t.source.toNat - 1) (judged t a s).src
      report := report } :=
  ⟨_, noteIf_eq ..⟩

theorem requestVerdict_sameTimers (t : Trailer) (a : Stamp) (s : State) :
    SameTimers s (requestVerdict t a s).2 :=
  .trans (t := s.setRecord t.source.toNat (judged t a s).src) (.of_parts rfl rfl) (.noteIf ..)

/-- Stream watch takes a copy by its slots and the notes alone (R110, R125). -/
theorem tellStreamWatch_eq (n : CopyNotice) (s : State) : ∃ slots report, tellStreamWatch n s =
    { s with slots := slots, report := report } := by
  unfold tellStreamWatch
  split
  · exact ⟨_, _, rfl⟩
  · exact ⟨_, _, noteIf_eq ..⟩

/-! ### Forwarding (R51, R52, R54) -/

/-- The ring filter's counters after a frame that may be a forwarding candidate (R51). -/
def FilterCounters.sentOn (candidate down : Bool) (n : FilterCounters) : FilterCounters :=
  { n with
    forwarded := if candidate = true ∧ down = false then raise n.forwarded else n.forwarded
    deadEnd := if candidate = true ∧ down = true then raise n.deadEnd else n.deadEnd }

theorem FilterCounters.sentOn_eq_ite {c d : Bool} {P Q : Prop} [Decidable P] [Decidable Q]
    (hf : c = true ∧ d = false ↔ P) (hd : c = true ∧ d = true ↔ Q) (n : FilterCounters) : n.sentOn c d =
      { n with
        forwarded := if P then raise n.forwarded else n.forwarded
        deadEnd := if Q then raise n.deadEnd else n.deadEnd } := by
  simp only [sentOn, hf, hd]

theorem RingPort.port_ne_opposite (p : RingPort) : p.port ≠ p.opposite.port := by cases p <;> decide

theorem RingPort.tap_ne_port (p : RingPort) : Port.tap ≠ p.port := by cases p <;> decide

/-- A frame's end at the ring filter: a candidate is forwarded, and the reception's hold ends (R51, R54). -/
def sendOn (p : RingPort) (buf : Nat) (c : Class) (candidate : Bool) (s : State) : State :=
  release buf (if candidate then forward p buf c s else s)

theorem sendOn_not (p : RingPort) (buf : Nat) (c : Class) (expired : Bool) (s : State) :
    sendOn p buf c (!expired) s = release buf (if expired then s else forward p buf c s) := by
  cases expired <;> rfl

section SentOn
variable {p : RingPort} {c : Class} {candidate : Bool} {s : State} (buf : Nat)

/-- What is no candidate is released, and so is a candidate at a DOWN port. -/
theorem sendOn_ends (h : candidate = false ∨ s.isDown p.opposite.port = true) :
    sendOn p buf c candidate s =
      { s.countFilter p (FilterCounters.sentOn candidate (s.isDown p.opposite.port)) with
        pool := s.pool.release buf } := by
  cases candidate
  · rw [show FilterCounters.sentOn false (s.isDown p.opposite.port) = fun n => n from rfl, countFilter_id]
    rfl
  · obtain hno | hd := h
    · cases hno
    · rw [sendOn, if_pos rfl, forward, if_pos hd, hd]
      rfl

theorem sendOn_enqueues (hd : s.isDown p.opposite.port = false) :
    sendOn p buf c true s = release buf (enqueue p.opposite.port c buf .forwarded
      (s.countFilter p (FilterCounters.sentOn true (s.isDown p.opposite.port)))) := by
  rw [sendOn, if_pos rfl, forward, hd]
  rfl

/-- A candidate at a full queue is dropped there (R93). -/
theorem sendOn_drops (hd : s.isDown p.opposite.port = false)
    (hfull : c.depth ≤ ((s.eg p.opposite.port).queue c).length) :
    sendOn p buf c true s =
      { (s.countFilter p (FilterCounters.sentOn true (s.isDown p.opposite.port))).countEg p.opposite.port
          (EgressCounters.drop c) with pool := s.pool.release buf } := by
  rw [sendOn_enqueues buf hd]
  obtain ⟨h, -⟩ | ⟨-, -, h⟩ | ⟨-, h, -⟩ := enqueue_cases p.opposite.port c buf .forwarded
    (s.countFilter p (FilterCounters.sentOn true (s.isDown p.opposite.port)))
  · exact absurd (hd.symm.trans h) nofun
  · rw [h]
    rfl
  · exact absurd h (Nat.not_lt.mpr hfull)

/-- A candidate at a queue with room joins its tail, and the entry adds its hold before the reception's ends (R87). -/
theorem sendOn_joins (hd : s.isDown p.opposite.port = false)
    (hroom : ((s.eg p.opposite.port).queue c).length < c.depth) :
    sendOn p buf c true s =
      { (s.countFilter p (FilterCounters.sentOn true (s.isDown p.opposite.port))).setEg p.opposite.port
          ((s.eg p.opposite.port).setQueue c ((s.eg p.opposite.port).queue c ++
            [⟨buf, .forwarded, s.clock.timerUnits⟩])) with
        pool := (s.pool.addHold buf).release buf } := by
  rw [sendOn_enqueues buf hd]
  exact congrArg (release buf) (enqueue_joins
    (s := s.countFilter p (FilterCounters.sentOn true (s.isDown p.opposite.port))) buf .forwarded hd hroom)

end SentOn

/-- What a frame's end at the ring filter makes of the opposite port's scheduler and of the pool. -/
theorem sendOn_out (p : RingPort) (buf : Nat) (c : Class) (candidate : Bool) (s : State) :
    let out := p.opposite.port
    let t := sendOn p buf c candidate s
    (candidate = false ∨ s.isDown out = true → t.eg out = s.eg out ∧ t.pool = s.pool.release buf) ∧
    (candidate = true → s.isDown out = false → c.depth ≤ ((s.eg out).queue c).length →
      t.eg out = { s.eg out with counters := (s.eg out).counters.drop c } ∧ t.pool = s.pool.release buf) ∧
    (candidate = true → s.isDown out = false → ((s.eg out).queue c).length < c.depth →
      t.eg out = (s.eg out).setQueue c ((s.eg out).queue c ++ [⟨buf, .forwarded, s.clock.timerUnits⟩]) ∧
      t.pool = (s.pool.addHold buf).release buf) := by
  refine ⟨fun hend => ?_, fun hc hd hfull => ?_, fun hc hd hroom => ?_⟩
  · rw [sendOn_ends buf hend]
    exact ⟨rfl, rfl⟩
  · rw [hc, sendOn_drops buf hd hfull]
    exact ⟨(eg_countEg ..).trans (if_pos rfl), rfl⟩
  · rw [hc, sendOn_joins buf hd hroom]
    exact ⟨(eg_setEg ..).trans (if_pos rfl), rfl⟩

/-- What a frame's end at the ring filter leaves: all but counters of its arrival port, the pool, and the egress
scheduler of the opposite port. -/
theorem sendOn_rest (p : RingPort) (buf : Nat) (c : Class) (candidate : Bool) (s : State) :
    let u := s.countFilter p (FilterCounters.sentOn candidate (s.isDown p.opposite.port))
    let t := sendOn p buf c candidate s
    SameBut u t ∧ t.roll = s.roll ∧ t.report = s.report ∧ ∀ q, q ≠ p.opposite.port → t.eg q = s.eg q := by
  intro u t
  by_cases hend : candidate = false ∨ s.isDown p.opposite.port = true
  · rw [show t = _ from sendOn_ends buf hend]
    exact ⟨.parts .., rfl, rfl, fun _ _ => rfl⟩
  · obtain ⟨rfl, hd⟩ : candidate = true ∧ s.isDown p.opposite.port = false := by simpa using hend
    by_cases hfull : c.depth ≤ ((s.eg p.opposite.port).queue c).length
    · rw [show t = _ from sendOn_drops buf hd hfull]
      exact ⟨.parts .., rfl, rfl, fun q hq => (eg_countEg ..).trans (if_neg hq)⟩
    · rw [show t = _ from sendOn_joins buf hd (Nat.not_le.mp hfull)]
      exact ⟨.parts .., rfl, rfl, fun q hq => (eg_setEg ..).trans (if_neg hq)⟩

/-- A hold that is added while another ends leaves the buffer as it was (R87). -/
theorem Pool.get?_release_addHold {q : Pool} (hwf : q.wf = true) {i : Nat} {b : Buffer} (hb : q.get? i = some b)
    (k : Nat) : ((q.addHold i).release i).get? k = q.get? k := by
  have hmem : (i, b) ∈ q.bufs := (lookup_rising (Pool.wf_rising hwf).2 i b).mp hb
  have hrefs : 1 ≤ b.refs := ((Pool.wf_iff.mp hwf).1 _ hmem).2
  rw [Pool.get?_release (Pool.addHold_wf hwf), Pool.addHold, Pool.get?_modify]
  by_cases hk : k = i
  · subst hk
    simp [hb, show ¬ b.refs + 1 ≤ 1 by omega]
  · simp [hk]

/-! ### Dispatch (R43 to R47) -/

/-- A peer frame's end by its kind (R43 to R47). -/
def dispatch (p : RingPort) (h : Handed) (k : Kind) (b : Buffer) (expired : Bool) (s : State) : State :=
  match k with
  | .data => peerData p h b expired s
  | .time => peerTime p h b expired s
  | .check => sendOn p h.buf .urgent (!expired) s
  | .roll => if expired then release h.buf s else { s with rollIn := s.rollIn ++ [⟨h.buf, p, false⟩] }

theorem peerFrame_eq (p : RingPort) (h : Handed) (k : Kind) (b : Buffer) (s : State) :
    peerFrame p h k b s = dispatch p h k b (isExpired b.trailer s) (countExpired p (isExpired b.trailer s) s) := by
  cases k
  case check =>
    rw [dispatch, sendOn_not]
    rfl
  all_goals rfl

/-- An admitted frame of another node comes to the dispatch of stage 6 (R36 to R38, R42). -/
theorem filterFrame_peer {p : RingPort} {h : Handed} {k : Kind} {s : State}
    (hk : ringKind (s.buffer h.buf) = some k) (hsrc : (s.buffer h.buf).trailer.source ≠ s.node)
    (hfree : (admissionClass k (s.buffer h.buf).trailer).threshold ≤ s.free) :
    let b := s.buffer h.buf
    let e := isExpired b.trailer s
    filterFrame p h s = dispatch p h k b e (marked p k b e s) := by
  intro b e
  have hmark := crossedMark_eq p (isCrossed p k b) s
  have hadm : (crossedMark p (isCrossed p k b) s).admits (admissionClass k b.trailer) = true := by
    rw [hmark]
    exact decide_eq_true hfree
  have hpeer : b.trailer.source ≠ (crossedMark p (isCrossed p k b) s).node := by
    rw [hmark]
    exact hsrc
  have hexpired : isExpired b.trailer (crossedMark p (isCrossed p k b) s) = e := by
    rw [hmark]
    rfl
  rw [filterFrame_of_kind hk, hadm, if_neg (by decide), if_neg hpeer, peerFrame_eq, hexpired]
  rfl

/-- A copy that the verdict and the hop limit leave to be forwarded (R42 to R45). -/
def isCandidate (v : Verdict) (expired : Bool) : Bool := !expired && (v == .first || v == .duplicate)

theorem isCandidate_iff (v : Verdict) (e : Bool) :
    isCandidate v e = true ↔ ¬ e = true ∧ (v = .first ∨ v = .duplicate) := by
  simp [isCandidate]

theorem isCandidate_first (e : Bool) : isCandidate .first e = !e := Bool.and_true _

theorem isCandidate_duplicate (e : Bool) : isCandidate .duplicate e = !e := Bool.and_true _

theorem isCandidate_repeated (e : Bool) : isCandidate .repeated e = false := Bool.and_false _

theorem isCandidate_stale (e : Bool) : isCandidate .stale e = false := Bool.and_false _

/-- The state in which a peer TIME copy comes to forwarding: its record has taken the request, and a FIRST copy of the
time source has loaded node time (R45, R142). -/
def timeTaken (b : Buffer) (arrival : Stamp) (s : State) : State :=
  let u := (requestVerdict b.trailer arrival s).2
  if (judged b.trailer arrival s).verdict = .first ∧ s.cfg.timeSource ≠ 0 ∧ b.trailer.source = s.cfg.timeSource then
    loadTime (carriedTime b.body) b.trailer.hops u
  else u

theorem peerTime_eq (p : RingPort) (h : Handed) (b : Buffer) (e : Bool) (s : State) :
    peerTime p h b e s =
      sendOn p h.buf .urgent (isCandidate (judged b.trailer h.arrival s).verdict e) (timeTaken b h.arrival s) := by
  rw [peerTime, timeTaken, requestVerdict_verdict]
  cases (judged b.trailer h.arrival s).verdict
  case first => simp only [isCandidate_first, sendOn_not, true_and]
  case duplicate => simp only [isCandidate_duplicate, sendOn_not, reduceCtorEq, false_and, if_false]
  case repeated => simp only [isCandidate_repeated, sendOn, reduceCtorEq, false_and, if_false, Bool.false_eq_true]
  case stale => simp only [isCandidate_stale, sendOn, reduceCtorEq, false_and, if_false, Bool.false_eq_true]

/-- Stream watch is told of a peer DATA copy whose record has taken the request (R43, R44). -/
def toldCopy (h : Handed) (b : Buffer) (first : Bool) (s : State) : State :=
  tellStreamWatch ⟨first, b.trailer.source, b.trailer.seq, b.trailer.lane, classOfField b.trailer.cls,
    appidField b.body, h.arrival⟩ (requestVerdict b.trailer h.arrival s).2

/-- The state in which a peer DATA copy comes to forwarding: its record has taken the request, stream watch has been
told of a FIRST or DUPLICATE copy, and a FIRST copy has met the delivery filter (R43, R44, R50). -/
def dataTaken (p : RingPort) (h : Handed) (b : Buffer) (s : State) : State :=
  match (judged b.trailer h.arrival s).verdict with
  | .first => deliver p h.buf (classOfField b.trailer.cls) b.body (toldCopy h b true s)
  | .duplicate => toldCopy h b false s
  | _ => (requestVerdict b.trailer h.arrival s).2

theorem peerData_eq (p : RingPort) (h : Handed) (b : Buffer) (e : Bool) (s : State) :
    peerData p h b e s =
      sendOn p h.buf (classOfField b.trailer.cls) (isCandidate (judged b.trailer h.arrival s).verdict e)
        (dataTaken p h b s) := by
  rw [peerData, dataTaken, requestVerdict_verdict]
  unfold toldCopy
  cases (judged b.trailer h.arrival s).verdict
  case first => simp only [isCandidate_first, sendOn_not]
  case duplicate => simp only [isCandidate_duplicate, sendOn_not]
  case repeated => simp only [isCandidate_repeated, sendOn, if_false, Bool.false_eq_true]
  case stale => simp only [isCandidate_stale, sendOn, if_false, Bool.false_eq_true]

end Sys2Proof.Machine
end

section
/-! ## Peer CHECK frames and ROLL frames (R38, R42, R46, R47, R51) -/

namespace Sys2Proof.Machine

section Internal
variable {p : RingPort} {h : Handed} {s : State}

/-- A peer CHECK frame, always admitted, ends in `sendOn` (R37, R46). -/
theorem filterFrame_peerCheck (hk : ringKind (s.buffer h.buf) = some .check)
    (hsrc : (s.buffer h.buf).trailer.source ≠ s.node) :
    let b := s.buffer h.buf
    let e := isExpired b.trailer s
    filterFrame p h s = sendOn p h.buf .urgent (!e) (marked p .check b e s) :=
  filterFrame_peer hk hsrc (Nat.zero_le _)

/-- A peer ROLL frame goes to the roll unit, or is released when it is expired (R42, R47). -/
theorem filterFrame_peerRoll (hk : ringKind (s.buffer h.buf) = some .roll)
    (hsrc : (s.buffer h.buf).trailer.source ≠ s.node) :
    let b := s.buffer h.buf
    let e := isExpired b.trailer s
    ∃ ports report, filterFrame p h s =
      { s.countFilter p (FilterCounters.marked (isCrossed p .roll b) e) with
        ports := ports, report := report
        rollIn := if e then s.rollIn else s.rollIn ++ [⟨h.buf, p, false⟩]
        pool := if e then s.pool.release h.buf else s.pool } := by
  intro b e
  obtain ⟨ports, report, hu⟩ := marked_eq p .roll b e s
  refine ⟨ports, report, (filterFrame_peer hk hsrc (Nat.zero_le _)).trans ?_⟩
  rw [hu, dispatch]
  change (if e = true then _ else _) = _
  cases e <;> rfl

/-- An own ROLL frame goes to the roll unit, after the mark of a crossed copy (R38). -/
theorem filterFrame_ownRoll (hk : ringKind (s.buffer h.buf) = some .roll)
    (hsrc : (s.buffer h.buf).trailer.source = s.node) :
    ∃ ports report, filterFrame p h s =
      { s.countFilter p (FilterCounters.marked (isCrossed p .roll (s.buffer h.buf)) false) with
        ports := ports, report := report, rollIn := s.rollIn ++ [⟨h.buf, p, true⟩] } := by
  obtain ⟨ports, report, hu⟩ := marked_eq p .roll (s.buffer h.buf) false s
  refine ⟨ports, report, (filterFrame_own hk hsrc (Nat.zero_le _)).trans ?_⟩
  rw [show crossedMark p _ s = _ from hu]
  rfl

end Internal

end Sys2Proof.Machine

open Sys2Proof Sys2Proof.Machine

/-- Settles O21: a CHECK frame ends in `sendOn`, and a ROLL frame at the roll unit's input unless it is an expired
peer's. -/
theorem checksAreForwardedRollsHandedOver : Obligations.ChecksAreForwardedRollsHandedOver := by
  intro p h rest s hm hh b out peer expired n k hk hkind hcheck
  let v : State := { s with handed := s.handed.set p rest }
  have hexec := exec_ringFilter hm hh
  let e := isExpired b.trailer v
  have hexpired : e = true ↔ expired := isExpired_iff b.trailer v
  have hcount (x : Bool) (hx : x = true ↔ peer ∧ expired) :
      (v.countFilter p (FilterCounters.marked (isCrossed p k b) x)).filter.counters.get p = _ :=
    (countFilter_get_same ..).trans (FilterCounters.marked_eq_ite (isCrossed_iff p k b) hx n)
  by_cases hpeer : peer
  · have hmarks := hcount e (by simp [hexpired, hpeer])
    obtain rfl | rfl := hkind
    · have hframe : filterFrame p h v = sendOn p h.buf .urgent (!e) (marked p .check b e v) :=
        filterFrame_peerCheck hk hpeer
      rw [hframe] at hexec
      have hnot : (!e) = true ↔ ¬ expired := by simp [← hexpired]
      have htimers : SameTimers v (marked p .check b e v) := marked_sameTimers ..
      obtain ⟨ports, report, hu⟩ := marked_eq p .check b e v
      generalize marked p .check b e v = u at *
      generalize (!e) = onward at *
      obtain ⟨hsame, -, -, hother⟩ := sendOn_rest p h.buf .urgent onward u
      obtain ⟨hends, -, hjoins⟩ := sendOn_out p h.buf .urgent onward u
      rw [htimers.isDown] at hsame hends hjoins
      generalize sendOn p h.buf .urgent onward u = t at *
      subst hu
      refine ⟨t, hexec, hsame.handed, hsame.sources, hsame.slots, hother _ (RingPort.tap_ne_port _),
        hother _ (RingPort.port_ne_opposite _), hsame.check, hsame.tagger, hsame.time, ?_, fun _ => ⟨hsame.rollIn,
        fun hno hd hroom => (hjoins (hnot.mpr hno) hd hroom).1, fun hend => hends ?_⟩, nofun⟩
      · rw [hsame.filter, countFilter_get_same]
        refine (congrArg (FilterCounters.sentOn _ _) hmarks).trans (FilterCounters.sentOn_eq_ite ?_ ?_ _)
        all_goals simp only [hnot, true_and]; rfl
      · exact hend.imp_left fun hx => Bool.eq_false_iff.mpr fun hon => hnot.mp hon hx
    · obtain ⟨ports, report, hframe⟩ := filterFrame_peerRoll (p := p) (s := v) hk hpeer
      rw [hframe] at hexec
      exact ⟨_, hexec, rfl, rfl, rfl, rfl, rfl, rfl, rfl, rfl, hmarks, nofun, fun _ => ⟨rfl,
        fun hown => absurd hpeer hown,
        fun _ hno => ⟨if_neg (mt hexpired.mp hno), if_neg (mt hexpired.mp hno)⟩,
        fun _ hx => ⟨if_pos (hexpired.mpr hx), if_pos (hexpired.mpr hx)⟩⟩⟩
  · obtain rfl : k = .roll := hkind.resolve_left fun hc => hpeer (hcheck hc)
    obtain ⟨ports, report, hframe⟩ := filterFrame_ownRoll (p := p) (s := v) hk (not_not.mp hpeer)
    rw [hframe] at hexec
    exact ⟨_, hexec, rfl, rfl, rfl, rfl, rfl, rfl, rfl, rfl, hcount false (by simp [hpeer]), nofun, fun _ =>
      ⟨rfl, fun _ => ⟨rfl, rfl⟩, fun hyes => absurd hyes hpeer, fun hyes => absurd hyes hpeer⟩⟩
end

section
/-! ## Peer TIME frames (R42, R45, R51 to R54, R142, R143) -/

namespace Sys2Proof.Machine

/-- What a peer TIME copy changes before it comes to forwarding: the marks, the record of its source, and node time with
the time base's record of the load where it is a FIRST copy of the time source (R36, R42, R45, R142). -/
theorem timeTaken_marked (p : RingPort) (b : Buffer) (e : Bool) (a : Stamp) (s : State) :
    let j := judged b.trailer a s
    let loads := j.verdict = .first ∧ s.cfg.timeSource ≠ 0 ∧ b.trailer.source = s.cfg.timeSource
    let loaded := carriedTime b.body + BitVec.ofNat 32 (b.trailer.hops.toNat * s.cfg.hopAllowance.toNat)
    ∃ ports report clock time, timeTaken b a (marked p .time b e s) =
        { s.countFilter p (FilterCounters.marked (isCrossed p .time b) e) with
          sources := s.sources.setIfInBounds (b.trailer.source.toNat - 1) j.src
          ports := ports, report := report, clock := clock, time := time } ∧
      clock.timerUnits = s.clock.timerUnits ∧ clock.refclk = s.clock.refclk ∧
      (loads → clock.nodeTime = loaded ∧ time = { s.time with
        lastCorrection := recordedCorrection (loaded - s.clock.nodeTime)
        lastLoad := loaded
        loads := raise s.time.loads }) ∧
      (¬ loads → clock = s.clock ∧ time = s.time) := by
  intro j loads loaded
  obtain ⟨ports, report, hu⟩ := marked_eq p .time b e s
  rw [hu, timeTaken]
  obtain ⟨report', hr⟩ := requestVerdict_eq b.trailer a
    { s.countFilter p (FilterCounters.marked (isCrossed p .time b) e) with ports := ports, report := report }
  rw [hr]
  split
  · next hload => exact ⟨_, _, _, _, rfl, rfl, rfl, fun _ => ⟨rfl, rfl⟩, fun hno => absurd hload hno⟩
  · next hno => exact ⟨_, _, _, _, rfl, rfl, rfl, fun hload => absurd hload hno, fun _ => ⟨rfl, rfl⟩⟩

theorem timeTaken_sameTimers (b : Buffer) (a : Stamp) (s : State) : SameTimers s (timeTaken b a s) := by
  refine (requestVerdict_sameTimers b.trailer a s).trans ?_
  unfold timeTaken
  split <;> exact .of_parts rfl rfl

/-- A peer TIME frame ends in `sendOn`; TIME frames are always admitted (R37, R42, R45). -/
theorem filterFrame_peerTime {p : RingPort} {h : Handed} {s : State}
    (hk : ringKind (s.buffer h.buf) = some .time) (hsrc : (s.buffer h.buf).trailer.source ≠ s.node) :
    let b := s.buffer h.buf
    let e := isExpired b.trailer s
    filterFrame p h s =
      sendOn p h.buf .urgent (isCandidate (judged b.trailer h.arrival s).verdict e)
        (timeTaken b h.arrival (marked p .time b e s)) := by
  intro b e
  rw [filterFrame_peer hk hsrc (Nat.zero_le _), dispatch, peerTime_eq, judged_marked]

theorem source_ne_zero_of_ringKind {b : Buffer} {k : Kind} (hk : ringKind b = some k) : b.trailer.source ≠ 0 := by
  intro hzero
  have hnone := (ringKind_eq_none_iff b).mpr (.inr (.inl hzero))
  exact absurd (hnone.symm.trans hk) nofun

end Sys2Proof.Machine

open Sys2Proof Sys2Proof.Machine

/-- Settles O22: the copy comes to forwarding with its record updated and node time loaded or not, and ends in
`sendOn`. -/
theorem firstTimeCopiesLoadNodeTime : Obligations.FirstTimeCopiesLoadNodeTime := by
  intro p h rest s hm hh b j time correction out expired candidate k hk hsrc
  let v : State := { s with handed := s.handed.set p rest }
  let e := isExpired b.trailer v
  have hframe : filterFrame p h v =
      sendOn p h.buf .urgent (isCandidate j.verdict e) (timeTaken b h.arrival (marked p .time b e v)) :=
    filterFrame_peerTime (s := v) hk hsrc
  have hexpired : e = true ↔ expired := isExpired_iff b.trailer v
  have hcandidate : isCandidate j.verdict e = true ↔ candidate := by rw [isCandidate_iff, hexpired]
  have hcrossed : isCrossed p .time b = true ↔ b.trailer.lane.ownPort = p := isCrossed_iff_of_ne_roll (by decide) p b
  have hcount : (v.countFilter p (FilterCounters.marked (isCrossed p .time b) e)).filter.counters.get p = _ :=
    (countFilter_get_same ..).trans (FilterCounters.marked_eq_ite hcrossed hexpired k)
  have htimers : SameTimers s (timeTaken b h.arrival (marked p .time b e v)) :=
    SameTimers.trans (t := v) (.of_parts rfl rfl) ((marked_sameTimers ..).trans (timeTaken_sameTimers ..))
  obtain ⟨ports, report, clock, time', hw, hunits, hrefclk, hloads, hquiet⟩ := timeTaken_marked p b e h.arrival v
  have hexec := exec_ringFilter hm hh
  rw [hframe] at hexec
  generalize timeTaken b h.arrival (marked p .time b e v) = w at *
  obtain ⟨hsame, hroll, hreport, hother⟩ := sendOn_rest p h.buf .urgent (isCandidate j.verdict e) w
  obtain ⟨hends, hdrops, hjoins⟩ := sendOn_out p h.buf .urgent (isCandidate j.verdict e) w
  have hkept : SameTimers s (sendOn p h.buf .urgent (isCandidate j.verdict e) w) :=
    htimers.trans (.of_parts hsame.ports hreport)
  rw [htimers.isDown] at hsame hends hdrops hjoins
  generalize sendOn p h.buf .urgent (isCandidate j.verdict e) w = t at *
  subst hw
  refine ⟨t, hexec, hsame.handed, hsame.sources, (congrArg Clock.timerUnits hsame.clock).trans hunits,
    (congrArg Clock.refclk hsame.clock).trans hrefclk, fun hfirst hsource => ?_, fun hno => ?_,
    fun hc hd hroom => ⟨?_, fun hwf hbuf => ?_⟩, fun hc hd hfull => ?_, fun hend => hends ?_,
    ?_, ?_, hother _ (RingPort.port_ne_opposite _), hother _ (RingPort.tap_ne_port _), hsame.slots, hsame.check,
    hroll, hsame.loader, hsame.rollIn, hsame.tagger, ?_, ?_, hkept.hold, hkept.period,
    fun q => ⟨hkept.window q, hkept.qual q⟩⟩
  · obtain ⟨hnode, htime⟩ := hloads ⟨hfirst, hsource ▸ source_ne_zero_of_ringKind hk, hsource⟩
    exact ⟨(congrArg Clock.nodeTime hsame.clock).trans hnode, hsame.time.trans htime⟩
  · obtain ⟨hclock, htime⟩ := hquiet fun hl => hno.elim (absurd hl.1) (absurd hl.2.2)
    exact ⟨hsame.clock.trans hclock, hsame.time.trans htime⟩
  · refine (hjoins (hcandidate.mpr hc) hd hroom).1.trans ?_
    rw [show s.clock.timerUnits = clock.timerUnits from hunits.symm]
    rfl
  · rw [(hjoins (hcandidate.mpr hc) hd hroom).2]
    exact Pool.get?_release_addHold hwf hbuf
  · exact hdrops (hcandidate.mpr hc) hd hfull
  · exact hend.imp_left fun hc => Bool.eq_false_iff.mpr (mt hcandidate.mp hc)
  · rw [hsame.filter, countFilter_get_same]
    exact (congrArg (FilterCounters.sentOn _ _) hcount).trans
      (FilterCounters.sentOn_eq_ite (and_congr_left' hcandidate) (and_congr_left' hcandidate) _)
  · rw [hsame.filter, countFilter_get_opposite]
    exact countFilter_get_opposite p _ v
  · exact (congrArg Filter.clash hsame.filter).trans rfl
  · exact (congrArg Filter.hold hsame.filter).trans rfl
end

section
/-! ## Peer DATA frames (R42 to R44, R49 to R54) -/

namespace Sys2Proof.Machine

/-! ### Delivery (R50) -/

/-- A DOWN port refuses an entry (R93). -/
theorem enqueue_eg_refused {p : Port} {c : Class} {s : State} (b : Nat) (m : Mark) (hd : s.isDown p = true) :
    (enqueue p c b m s).eg p =
      { s.eg p with counters := { (s.eg p).counters with flushed := raise (s.eg p).counters.flushed } } := by
  rw [enqueue, if_pos hd, State.eg, entryEnded_egress]
  exact (eg_countEg ..).trans (if_pos rfl)

/-- The ring filter's counters after a copy that may be a FIRST one meets the delivery filter (R50). -/
def FilterCounters.filtered (first passes : Bool) (n : FilterCounters) : FilterCounters :=
  { n with
    delivered := if first = true ∧ passes = true then raise n.delivered else n.delivered
    blocked := if first = true ∧ passes = false then raise n.blocked else n.blocked }

theorem FilterCounters.filtered_eq_ite {f g : Bool} {P Q : Prop} [Decidable P] [Decidable Q]
    (hd : f = true ∧ g = true ↔ P) (hb : f = true ∧ g = false ↔ Q) (n : FilterCounters) : n.filtered f g =
      { n with
        delivered := if P then raise n.delivered else n.delivered
        blocked := if Q then raise n.blocked else n.blocked } := by
  simp only [filtered, hd, hb]

section Delivered
variable (p : RingPort) (buf : Nat) (c : Class) {body : List Byte} {s : State}

theorem deliver_blocks (h : s.cfg.passes body = false) :
    deliver p buf c body s = s.countFilter p (FilterCounters.filtered true (s.cfg.passes body)) := by
  rw [deliver, h]
  rfl

theorem deliver_passes (h : s.cfg.passes body = true) : deliver p buf c body s =
    enqueue .tap c buf .delivered (s.countFilter p (FilterCounters.filtered true (s.cfg.passes body))) := by
  rw [deliver, h]
  rfl

/-- A delivery leaves all but counters of the arrival port, the pool, and the tap port's scheduler. -/
theorem deliver_rest (body : List Byte) (s : State) :
    SameBut (s.countFilter p (FilterCounters.filtered true (s.cfg.passes body))) (deliver p buf c body s) ∧
      ∀ q, q ≠ .tap → (deliver p buf c body s).eg q = s.eg q := by
  cases h : s.cfg.passes body
  · rw [deliver_blocks p buf c h, h]
    exact ⟨.refl _, fun _ _ => rfl⟩
  · rw [deliver_passes p buf c h, h]
    exact ⟨.enqueue .., fun q hq => enqueue_eg_of_ne hq ..⟩

/-- The tap port's scheduler after a delivery: a blocked frame leaves it, a DOWN tap port refuses the frame, and a class
queue with room takes it (R50, R93). -/
theorem deliver_tap (body : List Byte) (s : State) (hroom : ((s.eg .tap).queue c).length < c.depth) :
    (deliver p buf c body s).eg .tap =
      if s.cfg.passes body then
        if s.isDown .tap then
          { s.eg .tap with
            counters := { (s.eg .tap).counters with flushed := raise (s.eg .tap).counters.flushed } }
        else (s.eg .tap).setQueue c ((s.eg .tap).queue c ++ [⟨buf, .delivered, s.clock.timerUnits⟩])
      else s.eg .tap := by
  cases h : s.cfg.passes body
  · rw [deliver_blocks p buf c h]
    rfl
  · rw [deliver_passes p buf c h, h, if_pos rfl]
    cases hd : s.isDown .tap
    · exact enqueue_eg_joins (s := s.countFilter p (FilterCounters.filtered true true)) buf .delivered hd hroom
    · exact enqueue_eg_refused (s := s.countFilter p (FilterCounters.filtered true true)) buf .delivered hd

end Delivered

/-! ### The copy's way to forwarding -/

theorem toldCopy_eq (h : Handed) (b : Buffer) (first : Bool) (s : State) : ∃ slots report, toldCopy h b first s =
    { s with
      sources := s.sources.setIfInBounds (b.trailer.source.toNat - 1) (judged b.trailer h.arrival s).src
      slots := slots, report := report } := by
  obtain ⟨report, hr⟩ := requestVerdict_eq b.trailer h.arrival s
  obtain ⟨slots, report', ht⟩ := tellStreamWatch_eq ⟨first, b.trailer.source, b.trailer.seq, b.trailer.lane,
    classOfField b.trailer.cls, appidField b.body, h.arrival⟩ (requestVerdict b.trailer h.arrival s).2
  exact ⟨slots, report', by rw [toldCopy, ht, hr]⟩

/-- What a peer DATA copy can do before it comes to forwarding, by its verdict (R43, R44, R50). -/
theorem dataTaken_cases (p : RingPort) (h : Handed) (b : Buffer) (s : State) :
    let j := judged b.trailer h.arrival s
    let u : State := { s with sources := s.sources.setIfInBounds (b.trailer.source.toNat - 1) j.src }
    (j.verdict = .first ∧ ∃ slots report, dataTaken p h b s =
      deliver p h.buf (classOfField b.trailer.cls) b.body { u with slots := slots, report := report }) ∨
    (j.verdict = .duplicate ∧ ∃ slots report, dataTaken p h b s = { u with slots := slots, report := report }) ∨
    ((j.verdict = .repeated ∨ j.verdict = .stale) ∧ ∃ report, dataTaken p h b s = { u with report := report }) := by
  intro j u
  have hrequest := requestVerdict_eq b.trailer h.arrival s
  unfold dataTaken
  cases hv : (judged b.trailer h.arrival s).verdict
  case first =>
    obtain ⟨slots, report, ht⟩ := toldCopy_eq h b true s
    exact .inl ⟨rfl, slots, report, by rw [ht]⟩
  case duplicate => exact .inr (.inl ⟨rfl, toldCopy_eq h b false s⟩)
  case repeated => exact .inr (.inr ⟨.inl rfl, hrequest⟩)
  case stale => exact .inr (.inr ⟨.inr rfl, hrequest⟩)

/-- What a peer DATA copy changes, and what it leaves, before it comes to forwarding. -/
theorem dataTaken_rest (p : RingPort) (h : Handed) (b : Buffer) (s : State) :
    let j := judged b.trailer h.arrival s
    let t := dataTaken p h b s
    (∃ slots, SameBut
      { s.countFilter p (FilterCounters.filtered (j.verdict == .first) (s.cfg.passes b.body)) with
        sources := s.sources.setIfInBounds (b.trailer.source.toNat - 1) j.src, slots := slots } t) ∧
      (∀ q, q ≠ .tap → t.eg q = s.eg q) ∧
      (j.verdict = .repeated ∨ j.verdict = .stale → t.pool = s.pool ∧ t.slots = s.slots) := by
  intro j t
  have hid (passes : Bool) : s.countFilter p (FilterCounters.filtered false passes) = s := countFilter_id p s
  obtain ⟨hv, slots, report, ht⟩ | ⟨hv, slots, report, ht⟩ | ⟨hv, report, ht⟩ := dataTaken_cases p h b s
  · obtain ⟨hsame, hother⟩ := deliver_rest p h.buf (classOfField b.trailer.cls) b.body
      { s with
        sources := s.sources.setIfInBounds (b.trailer.source.toNat - 1) j.src, slots := slots, report := report }
    rw [show t = _ from ht, show j.verdict = _ from hv]
    exact ⟨⟨slots, .trans (.parts _ report s.pool s.egress s.roll) hsame⟩, hother, nofun⟩
  · rw [show t = _ from ht, show j.verdict = _ from hv, show (Verdict.duplicate == .first) = false from rfl, hid]
    exact ⟨⟨slots, .parts _ report s.pool s.egress s.roll⟩, fun _ _ => rfl, nofun⟩
  · have hno : (j.verdict == .first) = false := by obtain hv | hv := hv <;> rw [show j.verdict = _ from hv] <;> rfl
    rw [show t = _ from ht, hno, hid]
    exact ⟨⟨s.slots, .parts _ report s.pool s.egress s.roll⟩, fun _ _ => rfl, fun _ => ⟨rfl, rfl⟩⟩

/-- The tap port's scheduler takes a FIRST copy that the delivery filter passes, and no other (R44, R50). -/
theorem dataTaken_tap (p : RingPort) (h : Handed) (b : Buffer) (s : State) :
    let c := classOfField b.trailer.cls
    ((s.eg .tap).queue c).length < c.depth →
    (dataTaken p h b s).eg .tap =
      if (judged b.trailer h.arrival s).verdict = .first ∧ s.cfg.passes b.body = true then
        if s.isDown .tap then
          { s.eg .tap with
            counters := { (s.eg .tap).counters with flushed := raise (s.eg .tap).counters.flushed } }
        else (s.eg .tap).setQueue c ((s.eg .tap).queue c ++ [⟨h.buf, .delivered, s.clock.timerUnits⟩])
      else s.eg .tap := by
  intro c hroom
  obtain ⟨hv, slots, report, ht⟩ | ⟨hv, slots, report, ht⟩ | ⟨hv, report, ht⟩ := dataTaken_cases p h b s
  · rw [ht, hv]
    refine (deliver_tap p h.buf c b.body { s with sources := _, slots := slots, report := report } hroom).trans ?_
    simp only [true_and]
    rfl
  · rw [ht, if_neg (by simp [hv])]
    rfl
  · rw [ht, if_neg fun hf => by simp [hf.1] at hv]
    rfl

/-- An admitted peer DATA frame ends in `sendOn` (R37, R42 to R44). -/
theorem filterFrame_peerData {p : RingPort} {h : Handed} {s : State}
    (hk : ringKind (s.buffer h.buf) = some .data) (hsrc : (s.buffer h.buf).trailer.source ≠ s.node)
    (hfree : (classOfField (s.buffer h.buf).trailer.cls).threshold ≤ s.free) :
    let b := s.buffer h.buf
    let e := isExpired b.trailer s
    filterFrame p h s =
      sendOn p h.buf (classOfField b.trailer.cls) (isCandidate (judged b.trailer h.arrival s).verdict e)
        (dataTaken p h b (marked p .data b e s)) := by
  intro b e
  rw [filterFrame_peer hk hsrc hfree, dispatch, peerData_eq, judged_marked]

end Sys2Proof.Machine

open Sys2Proof Sys2Proof.Machine

/-- Settles O20: the copy comes to forwarding with its record updated, stream watch told and the delivery made, and ends
in `sendOn`. -/
theorem peerDataFollowsItsVerdict : Obligations.PeerDataFollowsItsVerdict := by
  intro p h rest s hm hh b c j out expired candidate onward passed k hk hsrc hfree hroom htapRoom
  let v : State := { s with handed := s.handed.set p rest }
  let e := isExpired b.trailer v
  have hexpired : e = true ↔ expired := isExpired_iff b.trailer v
  have hcandidate : isCandidate j.verdict e = true ↔ candidate := by rw [isCandidate_iff, hexpired]
  have hcrossed : isCrossed p .data b = true ↔ b.trailer.lane.ownPort = p := isCrossed_iff_of_ne_roll (by decide) p b
  have hcount : (v.countFilter p (FilterCounters.marked (isCrossed p .data b) e)).filter.counters.get p = _ :=
    (countFilter_get_same ..).trans (FilterCounters.marked_eq_ite hcrossed hexpired k)
  have hfirst : (j.verdict == .first) = true ↔ j.verdict = .first := beq_iff_eq
  have hfiltered := (congrArg (FilterCounters.filtered (j.verdict == .first) (s.cfg.passes b.body)) hcount).trans
    (FilterCounters.filtered_eq_ite (P := passed) (and_congr_left' hfirst) (and_congr_left' hfirst) _)
  have hframe : filterFrame p h v =
      sendOn p h.buf c (isCandidate j.verdict e) (dataTaken p h b (marked p .data b e v)) :=
    filterFrame_peerData (s := v) hk hsrc hfree
  have hexec := exec_ringFilter hm hh
  rw [hframe] at hexec
  obtain ⟨ports, report, hu⟩ := marked_eq p .data b e v
  have htimers : SameTimers v (marked p .data b e v) := marked_sameTimers ..
  obtain ⟨⟨slots, htaken⟩, htakenEg, hended⟩ := dataTaken_rest p h b (marked p .data b e v)
  have htap := dataTaken_tap p h b (marked p .data b e v)
  generalize dataTaken p h b (marked p .data b e v) = w at *
  generalize marked p .data b e v = u at *
  subst hu
  obtain ⟨hsame, -, -, hother⟩ := sendOn_rest p h.buf c (isCandidate j.verdict e) w
  obtain ⟨hends, -, hjoins⟩ := sendOn_out p h.buf c (isCandidate j.verdict e) w
  rw [(htaken.isDown p.opposite.port).trans (htimers.isDown p.opposite.port)] at hsame hends hjoins
  rw [htakenEg _ (RingPort.tap_ne_port _).symm] at hends hjoins
  rw [htaken.clock] at hjoins
  generalize sendOn p h.buf c (isCandidate j.verdict e) w = t at *
  refine ⟨t, hexec, hsame.handed.trans htaken.handed, hsame.sources.trans htaken.sources,
    fun hon => (hjoins (hcandidate.mpr hon.1) hon.2 hroom).1, fun hno => ?_, fun hp hd => ?_, fun hp hd => ?_,
    fun hno => ?_, ?_, ?_, ?_, fun hv => ?_, hsame.rollIn.trans htaken.rollIn, hsame.check.trans htaken.check,
    hsame.tagger.trans htaken.tagger, hsame.time.trans htaken.time, hsame.clock.trans htaken.clock, ?_⟩
  · have hend : isCandidate j.verdict e = false ∨ s.isDown out = true := by
      rw [← Bool.not_eq_true, hcandidate, ← Bool.not_eq_false, ← not_and_or]
      exact hno
    exact (hends hend).1
  · exact (hother _ (RingPort.tap_ne_port _)).trans ((htap htapRoom).trans
      ((if_pos hp).trans (if_neg (Bool.eq_false_iff.mp ((htimers.isDown .tap).trans hd)))))
  · exact (hother _ (RingPort.tap_ne_port _)).trans ((htap htapRoom).trans
      ((if_pos hp).trans (if_pos ((htimers.isDown .tap).trans hd))))
  · exact (hother _ (RingPort.tap_ne_port _)).trans ((htap htapRoom).trans (if_neg hno))
  · exact (hother _ (RingPort.port_ne_opposite _)).trans (htakenEg _ (RingPort.tap_ne_port _).symm)
  · rw [hsame.filter, countFilter_get_same, htaken.filter]
    exact (congrArg (FilterCounters.sentOn _ _) ((countFilter_get_same ..).trans hfiltered)).trans
      (FilterCounters.sentOn_eq_ite (P := onward) (and_congr_left' hcandidate) (and_congr_left' hcandidate) _)
  · rw [hsame.filter, countFilter_get_opposite, htaken.filter]
    exact (countFilter_get_opposite ..).trans (countFilter_get_opposite p _ v)
  · have hend : isCandidate j.verdict e = false := Bool.eq_false_iff.mpr fun hc => by
      obtain ⟨-, hf | hf⟩ := hcandidate.mp hc <;> simp [hf] at hv
    obtain ⟨hpool, hslots⟩ := hended hv
    exact ⟨(hends (.inl hend)).2.trans (congrArg (·.release h.buf) hpool), (hsame.slots).trans hslots⟩
  · rw [hsame.filter, countFilter_clash, htaken.filter]
    rfl
end

section
/-! ## What a step can do to a source record (R57, R58, R76, R85, R167) -/

namespace Sys2Proof.Machine

/-! ### Operations that leave the source table -/

section Sources
variable (s : State)

theorem SameBut.headReplied : SameBut s (headReplied s) := by
  unfold Machine.headReplied
  split
  · exact .refl s
  · split <;> exact .parts s _ s.pool s.egress s.roll

theorem SameBut.composeReply : SameBut s (composeReply s) := by
  unfold Machine.composeReply
  split
  · exact .refl s
  · split
    · exact .refl s
    · split
      · exact .refl s
      · exact .composeLocal _ _ _ (fun t => (SameBut.headReplied t).trans (.countReport _ _)) s

@[simp] theorem note_sources (i : Item) : (note i s).sources = s.sources := (SameBut.note i s).sources

@[simp] theorem noteIf_sources (c : Bool) (i : Item) : (noteIf c i s).sources = s.sources :=
  (SameBut.noteIf c i s).sources

@[simp] theorem addNotice_sources (n : Notice) : (addNotice n s).sources = s.sources := (SameBut.addNotice n s).sources

@[simp] theorem entryEnded_sources (m : Mark) : (entryEnded m s).sources = s.sources := (SameBut.entryEnded m s).sources

@[simp] theorem enqueue_sources (p : Port) (c : Class) (b : Nat) (m : Mark) : (enqueue p c b m s).sources = s.sources :=
  (SameBut.enqueue p c b m s).sources

@[simp] theorem enqueueRing_sources (e w : Bool) (c : Class) (b : Nat) (m : Mark) :
    (enqueueRing e w c b m s).sources = s.sources := (SameBut.enqueueRing e w c b m s).sources

@[simp] theorem composeReply_sources : (composeReply s).sources = s.sources := (SameBut.composeReply s).sources

@[simp] theorem composeWaiting_sources : (composeWaiting s).sources = s.sources := (SameBut.composeWaiting s).sources

@[simp] theorem tellLanes_sources (old : RingCheck) : (tellLanes old s).sources = s.sources :=
  (SameBut.tellLanes old s).sources

@[simp] theorem endRound_sources : (endRound s).sources = s.sources := (SameBut.endRound s).sources

@[simp] theorem startRound_sources (c : RollCause) : (startRound c s).sources = s.sources :=
  (SameBut.startRound c s).sources

@[simp] theorem indEvent_sources (p : Port) (k : IndEvent) : (indEvent p k s).sources = s.sources := by
  rw [indEvent_eq]

@[simp] theorem refuseAdmission_sources (p : Port) : (refuseAdmission p s).sources = s.sources := by
  rw [refuseAdmission_eq]

@[simp] theorem crossedMark_sources (p : RingPort) (c : Bool) : (crossedMark p c s).sources = s.sources := by
  rw [crossedMark_eq]

@[simp] theorem dropReception_sources (p : Port) : (dropReception p s).sources = s.sources := by
  rw [dropReception_eq]

@[simp] theorem fallen_sources (p : Port) : (fallen p s).sources = s.sources := by rw [fallen_eq]

@[simp] theorem originate_sources (b : Nat) (c : Class) : (originate b c s).sources = s.sources := by
  obtain ⟨_, h⟩ := (originate_sameBut b c s).1
  exact h.sources

@[simp] theorem tapPath_sources (b : Nat) (f : List Byte) : (tapPath b f s).sources = s.sources := by
  unfold tapPath
  split
  · rfl
  · split
    · dsimp only
      split <;> simp
    · rfl

@[simp] theorem handOn_sources (p : Port) (b : Nat) (f : List Byte) : (handOn p b f s).sources = s.sources := by
  unfold handOn
  dsimp only
  split <;> simp

/-! Transmissions and the repeater -/

@[simp] theorem releases_sources (es : List Entry) :
    (es.foldl (fun t e => release e.buf t) s).sources = s.sources := by
  obtain ⟨q, hq⟩ := releases_eq es s
  rw [hq]

@[simp] theorem choose_sources (p : Port) : (choose p s).sources = s.sources := by
  unfold choose chooseLower startTransmission
  split
  · rfl
  · dsimp only
    split <;> simp

@[simp] theorem startRepeat_sources (out : RingPort) : (startRepeat out s).sources = s.sources := by
  unfold startRepeat
  split
  · rfl
  · split <;> rfl

@[simp] theorem repeatEnd_sources (p : RingPort) (f : Bool) (b : List Byte) :
    (repeatEnd p f b s).sources = s.sources := by
  unfold repeatEnd
  split
  · rfl
  · exact startRepeat_sources ..

@[simp] theorem endFrame_sources (p : Port) (b : List Byte) (n : Nat) : (endFrame p b n s).sources = s.sources := by
  unfold endFrame intactFrame
  dsimp only
  split
  · split
    · exact handOn_sources ..
    · exact repeatEnd_sources ..
    · rfl
    · rfl
  · exact dropReception_sources ..

@[simp] theorem startReception_sources (p : Port) : (startReception p s).sources = s.sources := by
  have hstore : (storeStart p s).sources = s.sources := by
    unfold storeStart
    split
    · simp
    · rfl
  unfold startReception
  split
  · split
    · exact hstore
    · unfold repeatStart
      dsimp only
      split
      · rfl
      · split <;> rfl
  · split
    · rfl
    · exact hstore

/-! Rolls, checks and the time base -/

@[simp] theorem passRoll_sources (p : RingPort) (b : Nat) (x y : List Byte) :
    (passRoll p b x y s).sources = s.sources := by
  obtain ⟨-, h⟩ | ⟨-, h⟩ := generatorTake_cases .urgent s
  all_goals
    unfold passRoll
    rw [h]
    dsimp only
  · split
    · simp
    · split <;> simp
  · rfl

@[simp] theorem outwardRoll_sources (p : RingPort) (b : Nat) : (outwardRoll p b s).sources = s.sources := by
  unfold outwardRoll
  dsimp only
  split
  · rfl
  · split <;> simp

@[simp] theorem homewardRoll_sources (p : RingPort) (b : Nat) : (homewardRoll p b s).sources = s.sources := by
  unfold homewardRoll
  split
  · rfl
  · simp

@[simp] theorem takeRoll_sources (p : RingPort) (b : Nat) (t : Trailer) (f : List Byte) :
    (takeRoll p b t f s).sources = s.sources := by
  unfold takeRoll
  split
  · rfl
  · dsimp only
    split <;> simp

@[simp] theorem haltRound_sources : (haltRound s).sources = s.sources := by
  unfold haltRound
  split <;> simp

@[simp] theorem sendCheck_sources : (sendCheck s).sources = s.sources := by
  obtain ⟨-, h⟩ | ⟨-, h⟩ := generatorTake_cases .urgent s
  all_goals
    unfold sendCheck
    rw [h]
    dsimp only
    split <;> simp

@[simp] theorem beginPeriod_sources (t : Option Timer) : (beginPeriod t s).sources = s.sources := sendCheck_sources _

@[simp] theorem judgePeriod_sources : (judgePeriod s).sources = s.sources := tellLanes_sources ..

@[simp] theorem sendTime_sources : (sendTime s).sources = s.sources := by
  obtain ⟨-, h⟩ | ⟨-, h⟩ := generatorTake_cases .urgent s
  all_goals
    unfold sendTime
    rw [h]
    dsimp only
    split <;> simp [takeNumber]

@[simp] theorem takeReturn_sources (t : Trailer) (a b : Stamp) : (takeReturn t a b s).sources = s.sources := by
  unfold takeReturn changeLane
  split <;> simp

@[simp] theorem updateSlot_sources (n : Nat) (w : Slot) : (updateSlot n w s).sources = s.sources := noteIf_sources ..

/-! The loader -/

@[simp] theorem startMember_sources : (startMember s).sources = s.sources := by
  unfold startMember
  dsimp only
  split <;> simp

@[simp] theorem endLoading_sources : (endLoading s).sources = s.sources := by
  unfold endLoading
  split
  · rfl
  · dsimp only
    split <;> simp [fixConfiguration]

@[simp] theorem imageDecided_sources (l : Loader) : (imageDecided l s).sources = s.sources := by
  unfold imageDecided
  split
  · rfl
  · split
    · exact endLoading_sources _
    · rfl

@[simp] theorem endAttempt_sources (r : ImageStatus × List Byte) (ops : List BusOp) :
    (endAttempt r ops s).sources = s.sources := by
  unfold endAttempt
  dsimp only
  split
  · exact imageDecided_sources ..
  · split
    · rfl
    · exact imageDecided_sources ..

@[simp] theorem endEpochRead_sources (n : Nat) (r : EpochRead) : (endEpochRead n r s).sources = s.sources := by
  unfold endEpochRead
  split
  · rfl
  · split <;> rfl

@[simp] theorem endEpochWrite_sources (f : Option BusFailure) : (endEpochWrite f s).sources = s.sources := by
  unfold endEpochWrite
  split
  · rfl
  · exact endLoading_sources _

@[simp] theorem epochWriteFailed_sources : (epochWriteFailed s).sources = s.sources := endLoading_sources _

/-! The ring filter -/

@[simp] theorem clashFrame_sources (b : Nat) : (clashFrame b s).sources = s.sources := noteIf_sources ..

@[simp] theorem ownFrame_sources (p : RingPort) (h : Handed) (k : Kind) (b : Buffer) :
    (ownFrame p h k b s).sources = s.sources := by
  cases k
  case roll => rfl
  all_goals
    unfold ownFrame
    dsimp only
    split
  case check.isTrue => exact takeReturn_sources ..
  case data.isTrue | time.isTrue => rfl
  all_goals exact clashFrame_sources ..

@[simp] theorem tellStreamWatch_sources (n : CopyNotice) : (tellStreamWatch n s).sources = s.sources := by
  obtain ⟨slots, report, h⟩ := tellStreamWatch_eq n s
  rw [h]

@[simp] theorem deliver_sources (p : RingPort) (b : Nat) (c : Class) (f : List Byte) :
    (deliver p b c f s).sources = s.sources := by
  unfold deliver
  split <;> simp

@[simp] theorem sendOn_sources (p : RingPort) (b : Nat) (c : Class) (f : Bool) :
    (sendOn p b c f s).sources = s.sources :=
  (sendOn_rest p b c f s).1.sources

theorem timeTaken_sources (b : Buffer) (a : Stamp) :
    (timeTaken b a s).sources = (requestVerdict b.trailer a s).2.sources := by
  unfold timeTaken
  dsimp only
  split <;> rfl

theorem dataTaken_sources (p : RingPort) (h : Handed) (b : Buffer) :
    (dataTaken p h b s).sources = (requestVerdict b.trailer h.arrival s).2.sources := by
  unfold dataTaken toldCopy
  split <;> simp

/-- A peer frame changes the source table by its request for a verdict, which DATA and TIME frames make (R43 to R47). -/
theorem dispatch_sources (p : RingPort) (h : Handed) (k : Kind) (b : Buffer) (e : Bool) :
    (dispatch p h k b e s).sources = s.sources ∨
      (dispatch p h k b e s).sources = (requestVerdict b.trailer h.arrival s).2.sources := by
  cases k
  case data =>
    rw [dispatch, peerData_eq]
    exact .inr ((sendOn_sources ..).trans (dataTaken_sources ..))
  case time =>
    rw [dispatch, peerTime_eq]
    exact .inr ((sendOn_sources ..).trans (timeTaken_sources ..))
  case check => exact .inl (sendOn_sources ..)
  case roll => cases e <;> exact .inl rfl

end Sources

/-! ### What one command can do to a record -/

/-- What a command can do to a source record: nothing, one request for a verdict (R58), the cleared values of an ageing
or a start (R76, R167), or ZERO (R85). -/
inductive RecordStep (r : SourceRecord) : SourceRecord → Prop
  | same : RecordStep r r
  | judged (limit : Nat) (n : Seq) (e : BitVec 4) (x : Lane) (a : Stamp) (t : Timer) :
      RecordStep r (r.judge limit n e x a t).src
  | emptied : RecordStep r {}
  | zeroed : RecordStep r r.zeroed

/-- Every record of the source table makes such a step. -/
structure TableStep (s t : State) : Prop where
  record : ∀ node, RecordStep (s.record node) (t.record node)

theorem record_congr {s t : State} (h : t.sources = s.sources) (node : Nat) : t.record node = s.record node := by
  rw [State.record, h, ← State.record]

/-- The step depends on the source tables alone. -/
theorem TableStep.congr {s s' t t' : State} (h : TableStep s t) (hs : s'.sources = s.sources)
    (ht : t'.sources = t.sources) : TableStep s' t' := ⟨fun node => by
  rw [record_congr hs, record_congr ht]
  exact h.record node⟩

theorem TableStep.of_sources {s t : State} (h : t.sources = s.sources) : TableStep s t :=
  .congr (s := s) ⟨fun _ => .same⟩ rfl h

theorem record_setRecord (s : State) (n m : Nat) (q : SourceRecord) :
    (s.setRecord n q).record m = if n - 1 = m - 1 ∧ m - 1 < 62 then q else s.record m := by
  unfold State.record State.setRecord
  rw [Vector.getElem?_setIfInBounds]
  by_cases h : n - 1 = m - 1
  · rw [h]
    by_cases hm : m - 1 < 62 <;> simp [hm]
  · simp [h]

theorem TableStep.setRecord {s : State} {n : Nat} {q : SourceRecord} (h : RecordStep (s.record n) q) :
    TableStep s (s.setRecord n q) := ⟨fun m => by
  rw [record_setRecord]
  split
  case isTrue hm => rwa [State.record, ← hm.1]
  case isFalse => exact .same⟩

theorem record_takeStart (c : StartCause) (s : State) (node : Nat) : (takeStart c s).record node = {} := by
  have hsources : (takeStart c s).sources = Vector.replicate 62 {} := by
    unfold takeStart
    cases c <;> cases s.pins.rst <;> rfl
  rw [State.record, hsources, Vector.getElem?_replicate]
  split <;> rfl

theorem TableStep.start (c : StartCause) (s u : State) : TableStep s (takeStart c u) := ⟨fun node => by
  rw [record_takeStart]
  exact .emptied⟩

/-- A command ends with its table as its effect leaves it, or with a start. -/
theorem TableStep.settle {s u : State} (h : TableStep s u) : TableStep s (settle u) := by
  obtain ⟨-, hend⟩ | ⟨-, -, -, hend⟩ | ⟨-, -, hend⟩ := settle_cases u
  all_goals rw [hend]
  · exact .start ..
  · exact h.congr rfl (composeWaiting_sources u)
  · exact h.congr rfl rfl

theorem TableStep.requestVerdict (t : Trailer) (a : Stamp) (s : State) : TableStep s (requestVerdict t a s).2 :=
  .congr (.setRecord (.judged ..)) rfl (noteIf_sources ..)

theorem TableStep.peerFrame (p : RingPort) (h : Handed) (k : Kind) (b : Buffer) (s : State) :
    TableStep s (peerFrame p h k b s) := by
  rw [peerFrame_eq]
  have hexpired : ∀ e, (countExpired p e s).sources = s.sources := fun e => by cases e <;> rfl
  obtain hd | hd := dispatch_sources (countExpired p (isExpired b.trailer s) s) p h k b (isExpired b.trailer s)
  · exact .of_sources (hd.trans (hexpired _))
  · exact (TableStep.requestVerdict ..).congr (hexpired _).symm hd

/-- A frame at the ring filter makes at most one request for a verdict (R34, R58). -/
theorem TableStep.filterFrame (p : RingPort) (h : Handed) (s : State) : TableStep s (filterFrame p h s) := by
  cases hk : ringKind (s.buffer h.buf) with
  | none =>
    rw [filterFrame_foreign hk, foreignFrame_eq]
    exact .of_sources rfl
  | some k =>
    rw [filterFrame_of_kind hk]
    have hmark := crossedMark_sources s p (isCrossed p k (s.buffer h.buf))
    split
    · exact .of_sources ((refuseAdmission_sources ..).trans hmark)
    · split
      · exact .of_sources ((ownFrame_sources ..).trans hmark)
      · exact (TableStep.peerFrame ..).congr hmark.symm rfl

theorem finish_stepsTable {s u : State} (h : TableStep s u) : NextWith (TableStep s) (finish u) := ⟨_, rfl, h.settle⟩

theorem finish_sources {s u : State} (h : u.sources = s.sources) : NextWith (TableStep s) (finish u) :=
  finish_stepsTable (.of_sources h)

theorem carryOut_stepsTable (c : Byte → Bool) {f : State → State} (r : State → CommandResult) {s : State}
    (hf : TableStep s (f s)) : NextWith (TableStep s) (carryOut c f r s) := by
  refine finish_stepsTable ?_
  split
  · have hfix : ∀ x t, (fixResult x t).sources = t.sources := fun x t => by
      unfold fixResult
      split <;> rfl
    exact hf.congr rfl ((composeReply_sources _).trans (hfix ..))
  · exact .of_sources rfl

theorem exec_stepsTable (c : Instr) (s : State) : NextWith (TableStep s) (exec c s) := by
  cases c with
  | powerOn => exact ⟨_, rfl, .start ..⟩
  | rstFall => exact ⟨_, rfl, .start ..⟩
  | ringFilter p =>
    refine finish_stepsTable ?_
    split
    · exact .of_sources rfl
    · rename_i h rest _
      split
      · exact (TableStep.filterFrame p h { s with handed := s.handed.set p rest }).congr rfl rfl
      · exact .of_sources rfl
  | silenceExpiry node =>
    refine finish_stepsTable ?_
    dsimp only
    split
    · exact (TableStep.setRecord .emptied).congr rfl (note_sources ..)
    · exact .of_sources rfl
  | zero =>
    rw [exec_zero]
    exact carryOut_stepsTable _ _ ⟨fun node => by rw [record_zeroCounters]; exact .zeroed⟩
  | report =>
    rw [exec_report]
    exact carryOut_stepsTable _ _ (.of_sources rfl)
  | restart =>
    rw [exec_restart]
    exact carryOut_stepsTable _ _ (.of_sources rfl)
  | badCommand =>
    rw [exec_badCommand]
    exact carryOut_stepsTable _ _ (.of_sources rfl)
  | roll =>
    show NextWith _ (execRoll s)
    refine carryOut_stepsTable _ _ (.of_sources ?_)
    split <;> simp
  | haltRoll =>
    show NextWith _ (execHaltRoll s)
    exact carryOut_stepsTable _ _ (.of_sources (haltRound_sources s))
  | rstRise =>
    refine finish_sources ?_
    split <;> rfl
  | linkFall p =>
    refine finish_sources ?_
    split
    · rfl
    · exact (tellLanes_sources ..).trans ((note_sources ..).trans (fallen_sources ..))
  | linkRise p =>
    refine finish_sources ?_
    split <;> rfl
  | giant p => exact finish_sources (dropReception_sources s p)
  | peerRoll p =>
    refine finish_sources ?_
    split
    · rfl
    · dsimp only
      split
      · exact homewardRoll_sources ..
      · exact outwardRoll_sources ..
  | ownRoll p =>
    refine finish_sources ?_
    split
    · rfl
    · dsimp only
      split
      · rfl
      · split
        · rfl
        · exact takeRoll_sources ..
  | transmissionComplete p =>
    refine finish_sources ?_
    split
    · split
      · exact entryEnded_sources ..
      · rfl
    · rfl
  | repeaterTxComplete out =>
    refine finish_sources ?_
    split
    · split <;> rfl
    · rfl
  | nodeCommand =>
    refine finish_sources ?_
    split
    · rfl
    · dsimp only
      unfold readCommand
      split
      · rfl
      · split <;> rfl
  | reportHoldExpiry =>
    refine finish_sources ?_
    split
    · dsimp only
      split <;> simp
    · rfl
  | epochReadAttempt r =>
    refine finish_sources ?_
    split
    · exact endEpochRead_sources ..
    · rfl
  | epochPoll a =>
    refine finish_sources ?_
    split
    · dsimp only
      split
      · exact endLoading_sources _
      · rfl
    · rfl
  | repeaterTransmitterFree out => exact finish_sources (startRepeat_sources s out)
  | qualificationExpiry | scanWindowEnd | frameStart | frameEnd | rollTimeoutExpiry | transmitterFree | clashHoldExpiry
  | streamTimerExpiry | laneTimerExpiry | startDeadlineExpiry | checkPeriodExpiry | timePeriodExpiry
  | reportPeriodExpiry | imageReadAttempt | epochWrite | epochPollTimeout =>
    refine finish_sources ?_
    split <;> simp

/-- What one step can do to the source table. -/
theorem step_stepsTable {s t : State} (h : step s = .next t) : TableStep s t := by
  obtain ⟨u, hu, hstep⟩ : NextWith (TableStep s) (step s) := by
    unfold step
    split
    · exact ⟨_, rfl, .of_sources rfl⟩
    · rename_i c rest _
      obtain ⟨u, hu, hrecord⟩ := exec_stepsTable c { s with pending := rest }
      exact ⟨u, hu, hrecord.congr rfl rfl⟩
  rw [h] at hu
  cases hu
  exact hstep

end Sys2Proof.Machine
end

section
/-! ## Where a copy falls, and what its verdict makes of the record (R59 to R68) -/

namespace Sys2Proof.Machine

/-! ### Numbers and counters -/

/-- Two different numbers of a source lie 65536 apart, the two ways round together. -/
theorem seq_sub_add_sub {a b : Seq} (h : a ≠ b) : (a - b).toNat + (b - a).toNat = 65536 := by
  have hne : a.toNat ≠ b.toNat := fun he => h (BitVec.eq_of_toNat_eq he)
  bv_omega

theorem seq_eq_add (a b : Seq) : b = a + BitVec.ofNat 16 (b - a).toNat := by
  rw [BitVec.ofNat_toNat, BitVec.setWidth_eq]
  bv_omega

theorem toNat_raise (c : Counter) : (raise c).toNat = min (c.toNat + 1) 4294967295 := by
  unfold raise raiseBy
  split
  · rw [BitVec.toNat_ofNat]
    omega
  · simp only [show (4294967295 : Counter).toNat = 4294967295 from rfl]
    omega

theorem toNat_le_raise (c : Counter) : c.toNat ≤ (raise c).toNat := by
  have := c.isLt
  rw [toNat_raise]
  omega

/-- A counter below its limit is told from its raised value. -/
theorem raise_ne {c : Counter} (h : c ≠ 4294967295) : raise c ≠ c := fun he => by
  have hc : c.toNat ≠ 4294967295 := fun hn => h (BitVec.eq_of_toNat_eq hn)
  have hraise := toNat_raise c
  have := c.isLt
  rw [he] at hraise
  omega

/-! ### Where a copy falls (R60 to R62, R66) -/

/-- A copy that cannot be placed: its epoch lies 9 or more ahead, or its number 64 to 32768 behind top (R61, R66). -/
def SourceRecord.Unplaced (r : SourceRecord) (n : Seq) (e : BitVec 4) : Prop :=
  9 ≤ (e - r.epoch).toNat ∨ e = r.epoch ∧ 64 ≤ (r.top - n).toNat ∧ (r.top - n).toNat ≤ 32768

/-- Where a copy can fall at a LIVE record: in the window, ahead of it, in an epoch 1 to 8 ahead, or nowhere. -/
theorem SourceRecord.placement_cases (r : SourceRecord) (n : Seq) (e : BitVec 4) :
    (e = r.epoch ∧ (r.top - n).toNat ≤ 63) ∨
      (e = r.epoch ∧ 1 ≤ (n - r.top).toNat ∧ (n - r.top).toNat ≤ 32767) ∨
      (1 ≤ (e - r.epoch).toNat ∧ (e - r.epoch).toNat ≤ 8) ∨ r.Unplaced n e := by
  unfold Unplaced
  by_cases he : e = r.epoch
  · by_cases hn : r.top = n
    · exact .inl ⟨he, by simp [hn]⟩
    · have := seq_sub_add_sub hn
      have := (r.top - n).isLt
      simp only [he, true_and]
      omega
  · have : (e - r.epoch).toNat ≠ 0 := fun h0 => he (by
      have := e.isLt
      have := r.epoch.isLt
      bv_omega)
    omega

section Weigh
variable {r : SourceRecord} (limit : Nat) {n : Seq} {e : BitVec 4} (x : Lane)

/-- A copy at an EMPTY record (R59). -/
theorem SourceRecord.weigh_empty (hl : r.live = false) :
    r.weigh limit n e x = ⟨.first, { r.around n e x with counters := {} }, true⟩ := by simp [weigh, hl]

theorem SourceRecord.weigh_epoch (hl : r.live = true) (he : e = r.epoch) :
    r.weigh limit n e x = r.place limit n e x := by simp [weigh, hl, he]

/-- A copy at top or up to 63 behind it is judged at its position (R63, R65). -/
theorem SourceRecord.weigh_inWindow (hl : r.live = true) (he : e = r.epoch) (hk : (r.top - n).toNat ≤ 63) :
    r.weigh limit n e x = (r.atPosition x (r.top - n).toNat).clearRun := by
  rw [weigh_epoch limit x hl he, place]
  by_cases hn : r.top = n
  · simp [hn]
  · have hround := seq_sub_add_sub hn
    have := (r.top - n).isLt
    dsimp only
    rw [if_neg (by omega), if_neg (by omega), if_pos (by omega), ← hround, Nat.add_sub_cancel]

/-- A copy 1 to 32767 ahead of top shifts the window (R64). -/
theorem SourceRecord.weigh_ahead (hl : r.live = true) (he : e = r.epoch) (h1 : 1 ≤ (n - r.top).toNat)
    (h2 : (n - r.top).toNat ≤ 32767) :
    r.weigh limit n e x = Judged.clearRun ⟨.first, (r.advance limit (n - r.top).toNat n x).src,
      (r.advance limit (n - r.top).toNat n x).noted⟩ := by
  rw [weigh_epoch limit x hl he, place]
  dsimp only
  rw [if_neg (by omega), if_pos h2]

/-- A copy whose epoch lies 1 to 8 ahead restarts the record (R61). -/
theorem SourceRecord.weigh_restart (hl : r.live = true) (h1 : 1 ≤ (e - r.epoch).toNat) (h8 : (e - r.epoch).toNat ≤ 8) :
    r.weigh limit n e x = ⟨.first,
      { r.around n e x with counters := { r.counters with restarts := raise r.counters.restarts } }, true⟩ := by
  rw [weigh]
  dsimp only
  rw [hl, if_neg (by decide), if_neg (by omega), if_pos h8]

theorem SourceRecord.weigh_unplaced (hl : r.live = true) (h : r.Unplaced n e) :
    r.weigh limit n e x = r.staleCopy n e x := by
  obtain h9 | ⟨he, h64, hfar⟩ := h
  · rw [weigh]
    dsimp only
    rw [hl, if_neg (by decide), if_neg (by omega), if_neg (by omega)]
  · have hn : r.top ≠ n := fun hn => by simp [hn] at h64
    have hround := seq_sub_add_sub hn
    rw [weigh_epoch limit x hl he, place]
    dsimp only
    rw [if_neg (by omega), if_neg (by omega), if_neg (by omega)]

/-- One of the first seven copies in a row that cannot be placed is STALE (R66, R67). -/
theorem SourceRecord.weigh_stale (hl : r.live = true) (h : r.Unplaced n e) (hrun : r.staleRun ≤ 6) :
    r.weigh limit n e x = ⟨.stale, { r with staleRun := r.staleRun + 1 }, false⟩ := by
  rw [weigh_unplaced limit x hl h, staleCopy, if_pos (by omega)]

/-- The eighth resynchronises the record (R67). -/
theorem SourceRecord.weigh_resync (hl : r.live = true) (h : r.Unplaced n e) (hrun : 7 ≤ r.staleRun) :
    r.weigh limit n e x = ⟨.first,
      { r.around n e x with counters := { r.counters with resyncs := raise r.counters.resyncs } }, true⟩ := by
  rw [weigh_unplaced limit x hl h, staleCopy, if_neg (by omega)]

end Weigh

/-! ### The verdict of a window position (R63, R65) -/

section AtPosition
variable (r : SourceRecord) (x : Lane) (k : Nat)

theorem SourceRecord.atPosition_verdict : (r.atPosition x k).verdict =
    if r.bit x k = true then .repeated else if r.bit x.other k = true then .duplicate else .first := by
  unfold atPosition
  split
  · rfl
  · split <;> rfl

/-- A copy in the window changes the maps and the span alone. -/
theorem SourceRecord.atPosition_eq : (r.atPosition x k).src =
    { r with
      mapE := (r.atPosition x k).src.mapE
      mapW := (r.atPosition x k).src.mapW
      span := (r.atPosition x k).src.span } := by
  unfold atPosition
  split
  · rfl
  · split <;> cases x <;> rfl

/-- The copy's bit is set, unless it was, and every other bit stays. -/
theorem SourceRecord.atPosition_bit (hk : k ≤ 63) (y : Lane) (i : Nat) :
    (r.atPosition x k).src.bit y i = (r.bit y i || (decide (y = x) && decide (i = k))) := by
  have hset : (r.setBit x k).bit y i = (r.bit y i || (decide (y = x) && decide (i = k))) := by
    rw [bit_setBit]
    by_cases hi : i = k
    · simp [hi, show k < 64 by omega, eq_comm]
    · simp [hi]
  unfold atPosition
  split
  case isTrue hx =>
    by_cases hyi : y = x ∧ i = k
    · rw [hyi.1, hyi.2, hx]
      rfl
    · simp [← Bool.decide_and, hyi]
  case isFalse =>
    split <;> exact hset

theorem SourceRecord.atPosition_span : (r.atPosition x k).src.span =
    if r.bit x k = false ∧ r.bit x.other k = false then max r.span (k + 1) else r.span := by
  unfold atPosition
  split
  case isTrue hx => simp [hx]
  case isFalse hx =>
    split
    case isTrue hy =>
      rw [if_neg (by simp [hy])]
      cases x <;> rfl
    case isFalse hy => rw [if_pos ⟨by simpa using hx, by simpa using hy⟩]

end AtPosition

/-- A record changed around a copy holds the copy's mark alone (R59, R61, R67). -/
theorem SourceRecord.around_bit (r : SourceRecord) (n : Seq) (e : BitVec 4) (x y : Lane) (i : Nat) :
    (r.around n e x).bit y i = (decide (y = x) && decide (i = 0)) := by
  by_cases hi : i = 0
  · cases x <;> cases y <;> simp [around, bit, map, hi]
  · cases x <;> cases y <;> simp [around, bit, map, hi]

/-! ### A request whole (R58, R68, R69) -/

@[simp] theorem SourceCounters.verdict_restarts (k : SourceCounters) (v : Verdict) (x : Lane) :
    (k.verdict v x).restarts = k.restarts := by cases v <;> cases x <;> rfl

@[simp] theorem SourceCounters.verdict_resyncs (k : SourceCounters) (v : Verdict) (x : Lane) :
    (k.verdict v x).resyncs = k.resyncs := by cases v <;> cases x <;> rfl

/-- The record is LIVE, with this number in its window and this lane's mark set for it. -/
def SourceRecord.HoldsMark (r : SourceRecord) (n : Seq) (x : Lane) : Prop :=
  r.live = true ∧ (r.top - n).toNat ≤ 63 ∧ r.bit x (r.top - n).toNat = true

section Judge
variable {r : SourceRecord} (limit : Nat) {n : Seq} {e : BitVec 4} (x : Lane) (a : Stamp) (t : Timer)

/-- A request adds the verdict's counter, last heard and the silence timer to what the verdict makes of the record. -/
theorem SourceRecord.judge_of_weigh {j : Judged} (h : r.weigh limit n e x = j) :
    r.judge limit n e x a t = { j with src := { j.src with
      counters := j.src.counters.verdict j.verdict x, lastHeard := a, silence := some t } } := by
  rw [judge, h]

/-- Neither restarted nor resynchronised from `r` to `q`, by counters below their limit. -/
def SourceRecord.SameRun (r q : SourceRecord) : Prop :=
  q.counters.restarts = r.counters.restarts ∧ r.counters.restarts ≠ 4294967295 ∧
    q.counters.resyncs = r.counters.resyncs ∧ r.counters.resyncs ≠ 4294967295

/-- What a request can do at a LIVE record that it neither restarts nor resynchronises. -/
theorem SourceRecord.judge_cases_of_sameRun (hl : r.live = true) (hs : r.SameRun (r.judge limit n e x a t).src) :
    (e = r.epoch ∧ (r.top - n).toNat ≤ 63 ∧
        r.weigh limit n e x = (r.atPosition x (r.top - n).toNat).clearRun) ∨
      (e = r.epoch ∧ 1 ≤ (n - r.top).toNat ∧ (n - r.top).toNat ≤ 32767 ∧
        r.weigh limit n e x = Judged.clearRun ⟨.first, (r.advance limit (n - r.top).toNat n x).src,
          (r.advance limit (n - r.top).toNat n x).noted⟩) ∨
      r.weigh limit n e x = ⟨.stale, { r with staleRun := r.staleRun + 1 }, false⟩ := by
  obtain ⟨hrestarts, hlimit, hresyncs, hlimit'⟩ := hs
  obtain ⟨he, hk⟩ | ⟨he, h1, h2⟩ | ⟨h1, h8⟩ | hun := r.placement_cases n e
  · exact .inl ⟨he, hk, weigh_inWindow limit x hl he hk⟩
  · exact .inr (.inl ⟨he, h1, h2, weigh_ahead limit x hl he h1 h2⟩)
  · rw [judge_of_weigh limit x a t (weigh_restart limit x hl h1 h8)] at hrestarts
    exact absurd ((SourceCounters.verdict_restarts ..).symm.trans hrestarts) (raise_ne hlimit)
  · obtain hrun | hrun := Nat.lt_or_ge r.staleRun 7
    · exact .inr (.inr (weigh_stale limit x hl hun (Nat.le_of_lt_succ hrun)))
    · rw [judge_of_weigh limit x a t (weigh_resync limit x hl hun hrun)] at hresyncs
      exact absurd ((SourceCounters.verdict_resyncs ..).symm.trans hresyncs) (raise_ne hlimit')

/-- The marks of such a record move up with top, and none is lost inside the window (R63 to R66). -/
theorem SourceRecord.judge_keeps_marks (hl : r.live = true) (hs : r.SameRun (r.judge limit n e x a t).src) :
    let q := (r.judge limit n e x a t).src
    q.live = true ∧
      ∀ y k, k + (q.top - r.top).toNat < 64 → r.bit y k = true → q.bit y (k + (q.top - r.top).toNat) = true := by
  intro q
  obtain ⟨-, hk, hw⟩ | ⟨-, -, -, hw⟩ | hw := judge_cases_of_sameRun limit x a t hl hs
  all_goals rw [show q = _ from congrArg Judged.src (judge_of_weigh limit x a t hw)]
  · have hrest := r.atPosition_eq x (r.top - n).toNat
    have htop : (r.atPosition x (r.top - n).toNat).src.top = r.top := by rw [hrest]
    refine ⟨by simp only [Judged.clearRun]; rw [hrest]; exact hl, fun y k _ hb => ?_⟩
    simp only [Judged.clearRun, htop, BitVec.sub_self, BitVec.toNat_zero, Nat.add_zero]
    exact (r.atPosition_bit x _ hk y k).trans (by simp [hb])
  · obtain ⟨hlive, htop, -, -, -, -, -, -, hbit⟩ := r.advance_spec limit (n - r.top).toNat n x
    refine ⟨hlive.trans hl, fun y k hlt hb => ?_⟩
    simp only [Judged.clearRun, htop] at hlt ⊢
    generalize (n - r.top).toNat = d at hlt hbit ⊢
    exact (hbit y _).trans (by simp [hb, hlt])
  · refine ⟨hl, fun y k _ hb => ?_⟩
    simp only [BitVec.sub_self, BitVec.toNat_zero, Nat.add_zero]
    exact hb

/-- A FIRST copy's own mark stands in the window (R59 to R67). -/
theorem SourceRecord.judge_first (h : (r.judge limit n e x a t).verdict = .first) :
    (r.judge limit n e x a t).src.HoldsMark n x := by
  have haround : ∀ k : SourceCounters, r.weigh limit n e x = ⟨.first, { r.around n e x with counters := k }, true⟩ →
      (r.judge limit n e x a t).src.HoldsMark n x := by
    intro k hw
    rw [judge_of_weigh limit x a t hw, HoldsMark]
    simp only [show (r.around n e x).top = n from rfl, BitVec.sub_self, BitVec.toNat_zero]
    exact ⟨rfl, by omega, (r.around_bit n e x x 0).trans (by simp)⟩
  cases hl : r.live
  case false => exact haround _ (weigh_empty limit x hl)
  obtain ⟨he, hk⟩ | ⟨he, h1, h2⟩ | ⟨h1, h8⟩ | hun := r.placement_cases n e
  · rw [judge_of_weigh limit x a t (weigh_inWindow limit x hl he hk), HoldsMark]
    have hrest := r.atPosition_eq x (r.top - n).toNat
    have htop : (r.atPosition x (r.top - n).toNat).src.top = r.top := by rw [hrest]
    have hlive : (r.atPosition x (r.top - n).toNat).src.live = true := by rw [hrest]; exact hl
    simp only [Judged.clearRun, htop]
    exact ⟨hlive, hk, (r.atPosition_bit x _ hk x _).trans (by simp)⟩
  · rw [judge_of_weigh limit x a t (weigh_ahead limit x hl he h1 h2), HoldsMark]
    obtain ⟨hlive, htop, -, -, -, -, -, -, hbit⟩ := r.advance_spec limit (n - r.top).toNat n x
    simp only [Judged.clearRun, htop, BitVec.sub_self, BitVec.toNat_zero]
    exact ⟨hlive.trans hl, by omega, (hbit x 0).trans (by simp)⟩
  · exact haround _ (weigh_restart limit x hl h1 h8)
  · obtain hrun | hrun := Nat.lt_or_ge r.staleRun 7
    · rw [judge_of_weigh limit x a t (weigh_stale limit x hl hun (Nat.le_of_lt_succ hrun))] at h
      cases h
    · exact haround _ (weigh_resync limit x hl hun hrun)

/-! ### Taken numbers (R80) -/

/-- The marks of a taken number go with it as top advances. -/
theorem SourceRecord.Taken.advance {q : SourceRecord} {d : Nat} (h : r.Taken n d) (hl : q.live = true)
    (hd : d + (q.top - r.top).toNat ≤ 32768)
    (hmarks : ∀ y k, k + (q.top - r.top).toNat < 64 → r.bit y k = true → q.bit y (k + (q.top - r.top).toNat) = true) :
    q.Taken n (d + (q.top - r.top).toNat) := by
  obtain ⟨-, -, htop, hbit⟩ := h
  refine ⟨hl, hd, ?_, fun hlt => ?_⟩
  · rw [BitVec.ofNat_add, ← BitVec.add_assoc, ← htop]
    exact seq_eq_add _ _
  · exact (hbit (by omega)).imp (hmarks .e d hlt) (hmarks .w d hlt)

/-- A FIRST verdict takes its number. -/
theorem SourceRecord.taken_of_first (h : (r.judge limit n e x a t).verdict = .first) :
    let q := (r.judge limit n e x a t).src
    q.Taken n (q.top - n).toNat := by
  obtain ⟨hl, hk, hbit⟩ := judge_first limit x a t h
  refine ⟨hl, by omega, seq_eq_add _ _, fun _ => ?_⟩
  cases x
  · exact .inl hbit
  · exact .inr hbit

/-- A request leaves a taken number taken while the record is neither restarted nor resynchronised. -/
theorem SourceRecord.Taken.judge {m : Seq} {d : Nat} (h : r.Taken m d) (hs : r.SameRun (r.judge limit n e x a t).src)
    (hd : d + ((r.judge limit n e x a t).src.top - r.top).toNat ≤ 32768) :
    (r.judge limit n e x a t).src.Taken m (d + ((r.judge limit n e x a t).src.top - r.top).toNat) := by
  obtain ⟨hl, hmarks⟩ := judge_keeps_marks limit x a t h.1 hs
  exact h.advance hl hd hmarks

/-- A copy of a taken number is not FIRST. -/
theorem SourceRecord.Taken.not_first {d : Nat} (h : r.Taken n d) (hs : r.SameRun (r.judge limit n e x a t).src) :
    (r.judge limit n e x a t).verdict ≠ .first := by
  obtain ⟨hl, hd, htop, hbit⟩ := h
  have hback : (r.top - n).toNat = d := by
    rw [htop, BitVec.add_comm, BitVec.add_sub_cancel, BitVec.toNat_ofNat]
    omega
  obtain ⟨-, hk, hw⟩ | ⟨-, h1, h2, -⟩ | hw := judge_cases_of_sameRun limit x a t hl hs
  · rw [judge_of_weigh limit x a t hw]
    simp only [Judged.clearRun, atPosition_verdict]
    rw [hback] at hk ⊢
    have hmarked : r.bit x d = true ∨ r.bit x.other d = true := by
      cases x
      · exact hbit (by omega)
      · exact (hbit (by omega)).symm
    obtain hx | hy := hmarked
    · simp [hx]
    · rw [if_pos hy]
      split <;> nofun
  · have hn : n ≠ r.top := fun hn => by simp [hn] at h1
    have := seq_sub_add_sub hn
    omega
  · rw [judge_of_weigh limit x a t hw]
    nofun

end Judge

/-- What a command can do to a record leaves a taken number taken, while the record stays LIVE in the same run. -/
theorem RecordStep.taken {r q : SourceRecord} {n : Seq} {d : Nat} (hstep : RecordStep r q) (h : r.Taken n d)
    (hl : q.live = true) (hs : r.SameRun q) (hd : d + (q.top - r.top).toNat ≤ 32768) :
    q.Taken n (d + (q.top - r.top).toNat) := by
  cases hstep with
  | judged limit m e x a t => exact h.judge limit x a t hs hd
  | emptied => cases hl
  | same => exact h.advance hl hd fun y k _ hb => by simpa using hb
  | zeroed =>
    refine h.advance hl hd fun y k _ hb => ?_
    simp only [SourceRecord.zeroed, BitVec.sub_self, BitVec.toNat_zero, Nat.add_zero]
    exact hb

end Sys2Proof.Machine

open Sys2Proof Sys2Proof.Machine

/-- Settles O29: one step makes at most one request to a record, and a request moves the marks of a taken number with
top. -/
theorem takenNumbersStayTaken : Obligations.TakenNumbersStayTaken :=
  ⟨fun node _ _ _ _ _ _ hstep h hl hs hd => ((step_stepsTable hstep).record node).taken h hl hs hd,
    fun limit _ _ x arrival timer _ =>
      ⟨fun h => SourceRecord.taken_of_first limit x arrival timer h,
        fun _ h hs => h.not_first limit x arrival timer hs⟩⟩
end

section
/-! ## The law of the source records, and their ageing (R57, R67, R72, R76) -/

namespace Sys2Proof.Machine

theorem State.sourceLaw_iff (s : State) : s.SourceLaw ↔ ∀ node, (s.record node).Law := by
  constructor
  · intro h node
    unfold State.record
    by_cases hn : node - 1 < 62
    · rw [Vector.getElem?_eq_getElem hn]
      exact h _ (by simp)
    · rw [Vector.getElem?_eq_none (by omega)]
      exact SourceRecord.empty_law
  · intro h r hr
    obtain ⟨i, hi, rfl⟩ := List.getElem_of_mem hr
    have hi62 : i < 62 := by simpa using hi
    have hrecord := h (i + 1)
    rw [State.record, Nat.add_sub_cancel, Vector.getElem?_eq_getElem hi62] at hrecord
    simpa using hrecord

/-- What a command can do to a record keeps its law. -/
theorem RecordStep.law {r q : SourceRecord} (hstep : RecordStep r q) (h : r.Law) : q.Law := by
  cases hstep with
  | same => exact h
  | judged => exact SourceRecord.judge_law h ..
  | emptied => exact SourceRecord.empty_law
  | zeroed => exact ⟨fun hl => by rw [h.1 hl]; rfl, h.2⟩

theorem exec_silenceExpiry {node : Nat} {s : State} (h1 : 1 ≤ node) (h62 : node ≤ 62)
    (hl : (s.record node).live = true) (hd : s.clock.due (s.record node).silence = true) :
    exec (.silenceExpiry node) s = .next (settle (note (.source node) (s.setRecord node {}))) := by
  simp [exec, execSilenceExpiry, finish, h1, h62, hl, hd]

theorem exec_silenceExpiry_of_not {node : Nat} {s : State}
    (h : (s.record node).live = false ∨ s.clock.due (s.record node).silence = false) :
    exec (.silenceExpiry node) s = .next (settle s) := by
  have hno : ¬ (1 ≤ node ∧ node ≤ 62 ∧ (s.record node).live = true ∧ s.clock.due (s.record node).silence = true) := by
    rintro ⟨-, -, hl, hd⟩
    simp [hl, hd] at h
  simp only [exec, execSilenceExpiry, finish, if_neg hno]

end Sys2Proof.Machine

open Sys2Proof Sys2Proof.Machine

/-- Settles O28: each record makes one of the steps of `RecordStep`, and each of them keeps the record's law. -/
theorem sourceRecordsKeepTheirLaw : Obligations.SourceRecordsKeepTheirLaw := fun s t h hstep =>
  t.sourceLaw_iff.mpr fun node => ((step_stepsTable hstep).record node).law (s.sourceLaw_iff.mp h node)

/-- Settles O30, by the two cases of the command. -/
theorem silenceEmptiesARecord : Obligations.SilenceEmptiesARecord := fun _ _ =>
  ⟨exec_silenceExpiry, exec_silenceExpiry_of_not⟩
end

section
/-! ## Copies in the window, restarts and resyncs (R60 to R63, R65 to R67) -/

namespace Sys2Proof.Machine

theorem toNat_sub_sub_ofNat (top : Seq) {k : Nat} (hk : k ≤ 63) : (top - (top - BitVec.ofNat 16 k)).toNat = k := by
  rw [sub_sub_cancel, BitVec.toNat_ofNat]
  omega

end Sys2Proof.Machine

open Sys2Proof Sys2Proof.Machine

/-- Settles O24: such a copy is judged at its position, which changes the maps and the span alone. -/
theorem copiesInTheWindowAreJudgedByTheirBits : Obligations.CopiesInTheWindowAreJudgedByTheirBits := by
  intro limit k x a t r hl _ hk j
  have hback := toNat_sub_sub_ofNat r.top hk
  have hj : j = _ := SourceRecord.judge_of_weigh limit x a t
    (SourceRecord.weigh_inWindow limit x hl rfl (by rw [hback]; exact hk))
  rw [hback] at hj
  rw [hj]
  have hverdict := r.atPosition_verdict x k
  have hrest := r.atPosition_eq x k
  refine ⟨fun hx => ?_, fun hx hy => ?_, fun hx hy => ?_, r.atPosition_bit x k hk, r.atPosition_span x k,
    (congrArg SourceRecord.top hrest :), (congrArg SourceRecord.westMiss hrest :),
    (congrArg SourceRecord.eastMiss hrest :), (congrArg SourceRecord.path hrest :), rfl, rfl, rfl⟩
  · exact hverdict.trans (if_pos hx)
  · exact hverdict.trans (by simp [hx, hy])
  · exact hverdict.trans (by simp [hx, hy])

/-- Settles O25, by the three placements of a copy that the window does not judge. -/
theorem restartsAndResyncs : Obligations.RestartsAndResyncs := by
  intro limit n e x a t r hl j around
  have haround : ∀ k : SourceCounters,
      j.src = { r.around n e x with counters := k, lastHeard := a, silence := some t } → around := fun k hk => by
    simp only [around, hk]
    exact ⟨rfl, rfl, rfl, rfl, rfl, rfl, rfl, rfl, fun y i => r.around_bit n e x y i⟩
  refine ⟨fun h1 h8 => ?_, fun hun => ⟨fun hrun => ?_, fun hrun => ?_⟩⟩
  · have hj : j = _ := SourceRecord.judge_of_weigh limit x a t (SourceRecord.weigh_restart limit x hl h1 h8)
    refine ⟨by rw [hj], haround _ (congrArg Judged.src hj), ?_⟩
    rw [hj]
    exact SourceCounters.verdict_restarts ..
  · have hj : j = _ := SourceRecord.judge_of_weigh limit x a t (SourceRecord.weigh_stale limit x hl hun hrun)
    rw [hj]
    exact ⟨rfl, rfl, rfl, rfl, rfl, rfl, rfl, rfl, rfl, rfl, rfl⟩
  · have hj : j = _ := SourceRecord.judge_of_weigh limit x a t (SourceRecord.weigh_resync limit x hl hun hrun)
    refine ⟨by rw [hj], haround _ (congrArg Judged.src hj), ?_⟩
    rw [hj]
    exact ⟨SourceCounters.verdict_resyncs .., by cases x <;> rfl⟩
end

section
/-! ## Departure accounting (R64, R70 to R73, R81) -/

namespace Sys2Proof.Machine

theorem Accounted.toPath_eq (a : Accounted) (p : SourcePath) :
    a.toPath p = ⟨{ a.src with path := p }, a.noted || a.src.path != p⟩ := by
  unfold toPath
  split
  case isTrue h => simp [← h]
  case isFalse h => simp [h]

/-- A streak reaches the limit as the rule of R72 counts it, with streaks of at most 255. -/
theorem streak_reaches_iff (limit streak : Nat) :
    (streak < 255 ∧ min 255 (streak + 1) = limit) ↔ (streak + 1 = limit ∧ limit ≤ 255) := by omega

/-- A departure that held the lane-E copy alone (R72). -/
theorem Accounted.eastSingle_eq (limit : Nat) (a : Accounted) :
    let b : Accounted := ⟨{ a.src with
      westMiss := min 255 (a.src.westMiss + 1), eastMiss := 0
      counters := { a.src.counters with westSingles := raise a.src.counters.westSingles } }, a.noted⟩
    a.eastSingle limit = if a.src.westMiss + 1 = limit ∧ limit ≤ 255 then b.toPath .eastOnly else b :=
  if_congr (streak_reaches_iff ..) rfl rfl

/-- A departure that held the lane-W copy alone (R72, mirror). -/
theorem Accounted.westSingle_eq (limit : Nat) (a : Accounted) :
    let b : Accounted := ⟨{ a.src with
      eastMiss := min 255 (a.src.eastMiss + 1), westMiss := 0
      counters := { a.src.counters with eastSingles := raise a.src.counters.eastSingles } }, a.noted⟩
    a.westSingle limit = if a.src.eastMiss + 1 = limit ∧ limit ≤ 255 then b.toPath .westOnly else b :=
  if_congr (streak_reaches_iff ..) rfl rfl

theorem SameWindow.bit {r q : SourceRecord} (h : SameWindow r q) (y : Lane) (i : Nat) : q.bit y i = r.bit y i := by
  cases y
  · exact congrArg (·.getLsbD i) h.mapE
  · exact congrArg (·.getLsbD i) h.mapW

/-- An account of departures kept as a record and a mark follows `Accounted.leave`, if it does so at each position. -/
theorem foldl_leave_eq {r : SourceRecord} {limit : Nat} {f : SourceRecord × Bool → Nat → SourceRecord × Bool}
    (hf : ∀ (a : Accounted) (k : Nat), SameWindow r a.src →
      f (a.src, a.noted) k = ((a.leave limit k).src, (a.leave limit k).noted)) (ks : List Nat) (a : Accounted)
    (ha : SameWindow r a.src) :
    ks.foldl f (a.src, a.noted) =
      ((ks.foldl (fun b k => b.leave limit k) a).src, (ks.foldl (fun b k => b.leave limit k) a).noted) := by
  induction ks generalizing a with
  | nil => rfl
  | cons k ks ih =>
    rw [List.foldl_cons, List.foldl_cons, hf a k ha]
    exact ih _ (ha.trans (a.leave_spec limit k).1)

/-- An advance changes maps, top and span beside what departure accounting changes (R64). -/
theorem SourceRecord.advance_eq (limit d : Nat) (n : Seq) (x : Lane) (r : SourceRecord) :
    (r.advance limit d n x).src =
      { (accountDepartures limit d r).src with
        mapE := (r.advance limit d n x).src.mapE
        mapW := (r.advance limit d n x).src.mapW
        top := n
        span := (r.advance limit d n x).src.span } := by cases x <;> rfl

theorem toNat_add_ofNat_sub (top : Seq) {d : Nat} (hd : d ≤ 32767) : (top + BitVec.ofNat 16 d - top).toNat = d := by
  rw [add_sub_cancel_left, BitVec.toNat_ofNat]
  omega

end Sys2Proof.Machine

open Sys2Proof Sys2Proof.Machine

/-- Settles O26: the account of the statement follows the model's at each leaving position, so over all of them. -/
theorem aheadCopiesShiftTheWindow : Obligations.AheadCopiesShiftTheWindow := by
  intro limit d x a t r hl h1 hd n j toPath leave left k
  have hleave : ∀ (b : Accounted) (i : Nat), SameWindow r b.src →
      leave (b.src, b.noted) i = ((b.leave limit i).src, (b.leave limit i).noted) := fun b i hb => by
    simp only [leave, Accounted.leave, hb.bit]
    cases r.bit .e i <;> cases r.bit .w i
    · rfl
    · simp only [Accounted.westSingle_eq, Accounted.toPath_eq, toPath]
      split <;> rfl
    · simp only [Accounted.eastSingle_eq, Accounted.toPath_eq, toPath]
      split <;> rfl
    · simp only [Accounted.paired, Accounted.toPath_eq, toPath]
  have hleft : left = _ := foldl_leave_eq hleave (leavingPositions r.span d) ⟨r, false⟩ (.refl r)
  have hdist := toNat_add_ofNat_sub r.top hd
  have hj : j = _ := SourceRecord.judge_of_weigh limit x a t
    (SourceRecord.weigh_ahead limit x hl rfl (by rw [hdist]; exact h1) (by rw [hdist]; exact hd))
  rw [hdist] at hj
  obtain ⟨-, htop, hspan, -, -, -, -, -, hbit⟩ := r.advance_spec limit d n x
  have hrest := r.advance_eq limit d n x
  have hsrc : accountDepartures limit d r = Accounted.missed (d - 64) ⟨left.1, left.2⟩ := by
    rw [hleft]
    rfl
  rw [hsrc] at hrest
  rw [hj]
  refine ⟨rfl, htop, hspan, rfl, fun y i hi => ?_, (congrArg SourceRecord.westMiss hrest :),
    (congrArg SourceRecord.eastMiss hrest :), (congrArg SourceRecord.path hrest :), ?_, ?_⟩
  · refine (hbit y i).trans ?_
    rw [Bool.or_comm, decide_eq_true hi, Bool.and_true]
    simp only [@eq_comm _ x]
  · exact congrArg Accounted.noted hsrc
  · refine (congrArg (fun q : SourceRecord => q.counters.verdict .first x) hrest).trans ?_
    cases x <;> rfl
end

section
/-! ## The two lane copies of a number (R59, R63 to R65, R78) -/

namespace Sys2Proof.Machine

theorem Lane.other_other (x : Lane) : x.other.other = x := by cases x <;> rfl

/-! ### The counters that only verdicts raise -/

/-- The counters of FIRST and DUPLICATE are as they were (R69). -/
structure SameVerdicts (a b : SourceCounters) : Prop where
  firstE : b.firstE = a.firstE
  firstW : b.firstW = a.firstW
  duplicates : b.duplicates = a.duplicates

theorem SameVerdicts.leave {k : SourceCounters} {a : Accounted} (h : SameVerdicts k a.src.counters) (limit i : Nat) :
    SameVerdicts k (a.leave limit i).src.counters := by
  unfold Accounted.leave
  split
  · rw [Accounted.paired, Accounted.toPath_eq]
    exact ⟨h.firstE, h.firstW, h.duplicates⟩
  · rw [Accounted.eastSingle_eq, Accounted.toPath_eq]
    split <;> exact ⟨h.firstE, h.firstW, h.duplicates⟩
  · rw [Accounted.westSingle_eq, Accounted.toPath_eq]
    split <;> exact ⟨h.firstE, h.firstW, h.duplicates⟩
  · exact ⟨h.firstE, h.firstW, h.duplicates⟩

/-- Departure accounting raises no counter of a verdict (R70 to R73). -/
theorem advance_sameVerdicts (limit d : Nat) (n : Seq) (x : Lane) (r : SourceRecord) :
    SameVerdicts r.counters (r.advance limit d n x).src.counters := by
  have hleft : SameVerdicts r.counters
      ((leavingPositions r.span d).foldl (fun a k => a.leave limit k) (Accounted.mk r false)).src.counters :=
    List.foldlRecOn _ _ (motive := fun a : Accounted => SameVerdicts r.counters a.src.counters) ⟨rfl, rfl, rfl⟩
      fun _ h k _ => h.leave limit k
  rw [SourceRecord.advance_eq]
  exact ⟨hleft.firstE, hleft.firstW, hleft.duplicates⟩

/-! ### The first copy -/

/-- The window in which a copy's mark is set: the one the record has when the copy is placed. -/
structure Window where
  top : Seq
  span : Nat
  marks : Lane → Nat → Bool

/-- The position of a number in the window. -/
def Window.position (w : Window) (n : Seq) : Nat := (w.top - n).toNat

/-- A FIRST copy on lane `x` of number `n`, in epoch `e`, that sets its mark in window `w`. -/
structure TookFirst (r : SourceRecord) (n : Seq) (e : BitVec 4) (w : Window) (x : Lane) (j : Judged) : Prop where
  verdict : j.verdict = .first
  live : j.src.live = true
  epoch : j.src.epoch = e
  top : j.src.top = w.top
  span : j.src.span = w.span
  bit : ∀ y i, i < 64 → j.src.bit y i = (w.marks y i || (decide (y = x) && decide (i = w.position n)))
  firstE : j.src.counters.firstE = if x = .e then raise r.counters.firstE else r.counters.firstE
  firstW : j.src.counters.firstW = if x = .w then raise r.counters.firstW else r.counters.firstW
  duplicates : j.src.counters.duplicates = r.counters.duplicates

theorem SameVerdicts.first {k l : SourceCounters} (h : SameVerdicts k l) (x : Lane) :
    (l.first x).firstE = (if x = .e then raise k.firstE else k.firstE) ∧
      (l.first x).firstW = (if x = .w then raise k.firstW else k.firstW) ∧ (l.first x).duplicates = k.duplicates := by
  obtain ⟨he, hw, hd⟩ := h
  cases x
  · exact ⟨congrArg raise he, hw, hd⟩
  · exact ⟨he, congrArg raise hw, hd⟩

/-- The window of a copy that a record is changed around (R59). -/
def Window.fresh (n : Seq) : Window := ⟨n, 1, fun _ _ => false⟩

/-- The window of a FIRST copy at position `k` of a record's window (R65). -/
def Window.reaching (r : SourceRecord) (k : Nat) : Window := ⟨r.top, max r.span (k + 1), r.bit⟩

/-- The window of a copy `d` ahead of a record's window (R64). -/
def Window.shifted (r : SourceRecord) (n : Seq) (d : Nat) : Window :=
  ⟨n, min 64 (r.span + d), fun y i => decide (d ≤ i) && r.bit y (i - d)⟩

@[simp] theorem Window.position_fresh (n : Seq) : (Window.fresh n).position n = 0 := by simp [Window.position, fresh]

@[simp] theorem Window.position_shifted (r : SourceRecord) (n : Seq) (d : Nat) : (shifted r n d).position n = 0 := by
  simp [Window.position, shifted]

section TookFirst
variable {r : SourceRecord} (limit : Nat) {n : Seq} {e : BitVec 4} (x : Lane) (a : Stamp) (t : Timer)

theorem tookFirst_empty : TookFirst {} n e (.fresh n) x (SourceRecord.judge limit n e x a t {}) := by
  rw [SourceRecord.judge_of_weigh limit x a t (SourceRecord.weigh_empty limit x rfl)]
  obtain ⟨he, hw, hd⟩ := SameVerdicts.first (k := {}) (l := {}) ⟨rfl, rfl, rfl⟩ x
  refine ⟨rfl, rfl, rfl, rfl, rfl, fun y i _ => ?_, he, hw, hd⟩
  rw [Window.position_fresh]
  exact SourceRecord.around_bit {} n e x y i

theorem tookFirst_inWindow {k : Nat} (hl : r.live = true) (he : e = r.epoch) (hn : (r.top - n).toNat = k) (hk : k ≤ 63)
    (hfree : ∀ y, r.bit y k = false) : TookFirst r n e (.reaching r k) x (r.judge limit n e x a t) := by
  have hw := SourceRecord.weigh_inWindow limit x hl he (hn.symm ▸ hk)
  rw [hn] at hw
  have hverdict := r.atPosition_verdict x k
  have hspan := r.atPosition_span x k
  have hrest := r.atPosition_eq x k
  rw [if_neg (by simp [hfree]), if_neg (by simp [hfree])] at hverdict
  rw [if_pos ⟨hfree x, hfree x.other⟩] at hspan
  rw [SourceRecord.judge_of_weigh limit x a t hw]
  simp only [Judged.clearRun, hverdict]
  obtain ⟨hce, hcw, hcd⟩ := SameVerdicts.first (k := r.counters) (l := (r.atPosition x k).src.counters)
    (by rw [hrest]; exact ⟨rfl, rfl, rfl⟩) x
  refine ⟨rfl, (congrArg SourceRecord.live hrest :).trans hl, (congrArg SourceRecord.epoch hrest :).trans he.symm,
    (congrArg SourceRecord.top hrest :), hspan, fun y i _ => ?_, hce, hcw, hcd⟩
  rw [show Window.position (.reaching r k) n = k from hn]
  exact r.atPosition_bit x k hk y i

theorem tookFirst_ahead {d : Nat} (hl : r.live = true) (he : e = r.epoch) (hn : (n - r.top).toNat = d) (h1 : 1 ≤ d)
    (hd : d ≤ 32767) : TookFirst r n e (.shifted r n d) x (r.judge limit n e x a t) := by
  have hw := SourceRecord.weigh_ahead limit x hl he (hn.symm ▸ h1) (hn.symm ▸ hd)
  rw [hn] at hw
  rw [SourceRecord.judge_of_weigh limit x a t hw]
  obtain ⟨hlive, htop, hspan, hepoch, -, -, -, -, hbit⟩ := r.advance_spec limit d n x
  obtain ⟨hce, hcw, hcd⟩ := (advance_sameVerdicts limit d n x r).first x
  refine ⟨rfl, hlive.trans hl, hepoch.trans he.symm, htop, hspan, fun y i hi => ?_, hce, hcw, hcd⟩
  rw [Window.position_shifted]
  refine (hbit y i).trans ?_
  rw [decide_eq_true hi, Bool.and_true]
  simp only [@eq_comm _ x, Window.shifted]

end TookFirst

/-- A copy at a record that holds neither lane's mark for its number is FIRST, and the window in which it sets its mark
does not depend on its lane (R59, R63 to R65). -/
theorem exists_window_tookFirst (limit : Nat) {n : Seq} {e : BitVec 4} {r : SourceRecord} (hlaw : r.Law)
    (h : r.live = false ∨ (e = r.epoch ∧ (r.top - n).toNat ≤ 63 ∧ r.bit .e (r.top - n).toNat = false ∧
      r.bit .w (r.top - n).toNat = false) ∨ (e = r.epoch ∧ 1 ≤ (n - r.top).toNat ∧ (n - r.top).toNat ≤ 32767)) :
    ∃ w : Window, w.position n ≤ 63 ∧ (∀ y, w.marks y (w.position n) = false) ∧
      ∀ x a t, TookFirst r n e w x (r.judge limit n e x a t) := by
  cases hl : r.live with
  | false =>
    obtain rfl := hlaw.1 hl
    exact ⟨.fresh n, by simp, fun _ => rfl, fun x a t => tookFirst_empty limit x a t⟩
  | true =>
    obtain hno | ⟨he, hk, hfreeE, hfreeW⟩ | ⟨he, h1, h2⟩ := h
    · exact absurd (hl.symm.trans hno) nofun
    · have hfree : ∀ y, r.bit y (r.top - n).toNat = false := fun y => by
        cases y
        · exact hfreeE
        · exact hfreeW
      exact ⟨.reaching r (r.top - n).toNat, hk, hfree, fun x a t => tookFirst_inWindow limit x a t hl he rfl hk hfree⟩
    · refine ⟨.shifted r n (n - r.top).toNat, by simp, fun y => ?_,
        fun x a t => tookFirst_ahead limit x a t hl he rfl h1 h2⟩
      rw [Window.position_shifted]
      exact Bool.and_eq_false_imp.mpr fun hd => absurd (of_decide_eq_true hd) (by omega)

/-! ### The second copy -/

/-- The other lane's copy of the same number is a DUPLICATE, and both marks stand in the window (R63, R65). -/
theorem TookFirst.second {r : SourceRecord} {n : Seq} {e : BitVec 4} {w : Window} {x : Lane} {j : Judged}
    (h : TookFirst r n e w x j) (hk : w.position n ≤ 63) (hfree : ∀ y, w.marks y (w.position n) = false) (limit : Nat)
    (a : Stamp) (t : Timer) :
    let i := j.src.judge limit n e x.other a t
    i.verdict = .duplicate ∧ i.src.top = w.top ∧ i.src.span = w.span ∧
      (∀ y m, m < 64 → i.src.bit y m = (w.marks y m || decide (m = w.position n))) ∧
      i.src.counters = { j.src.counters with duplicates := raise j.src.counters.duplicates } := by
  have hn : (j.src.top - n).toNat = w.position n := by rw [h.top, Window.position]
  have hmine : j.src.bit x (w.position n) = true := by simp [h.bit _ _ (Nat.lt_succ_of_le hk)]
  have hother : j.src.bit x.other (w.position n) = false := by
    rw [h.bit _ _ (Nat.lt_succ_of_le hk), hfree]
    simp [Lane.other_ne]
  have hw := SourceRecord.weigh_inWindow limit x.other h.live h.epoch.symm (hn.symm ▸ hk)
  rw [hn] at hw
  have hverdict := j.src.atPosition_verdict x.other (w.position n)
  have hspan := j.src.atPosition_span x.other (w.position n)
  have hrest := j.src.atPosition_eq x.other (w.position n)
  rw [hother, Lane.other_other, hmine] at hverdict hspan
  intro i
  rw [show i = _ from SourceRecord.judge_of_weigh limit x.other a t hw]
  refine ⟨hverdict, (congrArg SourceRecord.top hrest :).trans h.top, hspan.trans h.span, fun y m hm => ?_, ?_⟩
  · refine (j.src.atPosition_bit x.other _ hk y m).trans ?_
    rw [h.bit y m hm]
    cases x <;> cases y <;> simp [Lane.other]
  · simp only [Judged.clearRun, hverdict]
    rw [hrest]
    rfl

end Sys2Proof.Machine

open Sys2Proof Sys2Proof.Machine

/-- Settles O23: the first copy sets its mark in a window that does not depend on its lane, and the second adds the
other mark there. -/
theorem twoLaneCopiesInEitherOrder : Obligations.TwoLaneCopiesInEitherOrder := by
  intro limit n e x a₁ a₂ t₁ t₂ r hlaw h j₁ j₂ i₁ i₂
  obtain ⟨w, hk, hfree, hfirst⟩ := exists_window_tookFirst limit hlaw h
  have hj := hfirst x a₁ t₁
  obtain ⟨hdup, htop, hspan, hbit, hcounters⟩ := hj.second hk hfree limit a₂ t₂
  have hi := (hfirst x.other a₁ t₁).second hk hfree limit a₂ t₂
  rw [Lane.other_other] at hi
  obtain ⟨-, htop', hspan', hbit', -⟩ := hi
  have hsame : ∀ y m, m < 64 → j₂.src.bit y m = i₂.src.bit y m := fun y m hm =>
    (hbit y m hm).trans (hbit' y m hm).symm
  have hmarked : ∀ y, j₂.src.bit y (j₂.src.top - n).toNat = true := fun y => by
    rw [show j₂.src.top = w.top from htop]
    exact (hbit y _ (Nat.lt_succ_of_le hk)).trans (by simp [Window.position])
  refine ⟨hj.verdict, hdup, BitVec.eq_of_getLsbD_eq (hsame .e), BitVec.eq_of_getLsbD_eq (hsame .w),
    htop.trans htop'.symm, hspan.trans hspan'.symm, hmarked .e, hmarked .w, fun _ => ?_⟩
  rw [show j₂.src.counters = _ from hcounters]
  refine ⟨congrArg raise hj.duplicates, ?_, ?_⟩
  · rintro rfl
    exact ⟨hj.firstE, hj.firstW⟩
  · rintro rfl
    exact ⟨hj.firstW, hj.firstE⟩
end

section
/-! ## A run of requests to one record (R80) -/

namespace Sys2Proof.Machine

/-! ### Restarts and resyncs are counted and never taken back -/

/-- The counts of restarts and resyncs have not fallen. -/
structure SourceRecord.RunLe (r q : SourceRecord) : Prop where
  restarts : r.counters.restarts.toNat ≤ q.counters.restarts.toNat
  resyncs : r.counters.resyncs.toNat ≤ q.counters.resyncs.toNat

theorem SourceRecord.RunLe.trans {r q v : SourceRecord} (h : r.RunLe q) (g : q.RunLe v) : r.RunLe v :=
  ⟨h.restarts.trans g.restarts, h.resyncs.trans g.resyncs⟩

/-- What lies within one run belongs to it. -/
theorem SourceRecord.SameRun.between {r v q : SourceRecord} (h : r.SameRun q) (hrv : r.RunLe v) (hvq : v.RunLe q) :
    r.SameRun v ∧ v.SameRun q := by
  obtain ⟨hrestarts, hlimit, hresyncs, hlimit'⟩ := h
  have hv : v.counters.restarts = r.counters.restarts :=
    BitVec.eq_of_toNat_eq (le_antisymm (hrestarts ▸ hvq.restarts) hrv.restarts)
  have hv' : v.counters.resyncs = r.counters.resyncs :=
    BitVec.eq_of_toNat_eq (le_antisymm (hresyncs ▸ hvq.resyncs) hrv.resyncs)
  exact ⟨⟨hv, hlimit, hv', hlimit'⟩,
    ⟨hrestarts.trans hv.symm, hv.symm ▸ hlimit, hresyncs.trans hv'.symm, hv'.symm ▸ hlimit'⟩⟩

/-- A request keeps a LIVE record LIVE, and counts its restart or resync if it makes one (R61, R67). -/
theorem SourceRecord.judge_runLe {r : SourceRecord} (limit : Nat) (n : Seq) (e : BitVec 4) (x : Lane) (a : Stamp)
    (t : Timer) (hl : r.live = true) :
    (r.judge limit n e x a t).src.live = true ∧ r.RunLe (r.judge limit n e x a t).src := by
  have hweigh : ∀ {j : Judged}, r.weigh limit n e x = j → j.src.live = true → r.RunLe j.src →
      (r.judge limit n e x a t).src.live = true ∧ r.RunLe (r.judge limit n e x a t).src := fun hj hlive hle => by
    rw [judge_of_weigh limit x a t hj]
    exact ⟨hlive, ⟨by simpa using hle.restarts, by simpa using hle.resyncs⟩⟩
  obtain ⟨he, hk⟩ | ⟨he, h1, h2⟩ | ⟨h1, h8⟩ | hun := r.placement_cases n e
  · have hrest := r.atPosition_eq x (r.top - n).toNat
    refine hweigh (weigh_inWindow limit x hl he hk) ?_ ?_
    all_goals simp only [Judged.clearRun]; rw [hrest]
    · exact hl
    · exact ⟨le_rfl, le_rfl⟩
  · obtain ⟨hlive, -, -, -, -, hrestarts, hresyncs, -⟩ := r.advance_spec limit (n - r.top).toNat n x
    exact hweigh (weigh_ahead limit x hl he h1 h2) (hlive.trans hl)
      ⟨le_of_eq (congrArg _ hrestarts.symm), le_of_eq (congrArg _ hresyncs.symm)⟩
  · exact hweigh (weigh_restart limit x hl h1 h8) rfl ⟨toNat_le_raise _, le_rfl⟩
  · obtain hrun | hrun := Nat.lt_or_ge r.staleRun 7
    · exact hweigh (weigh_stale limit x hl hun (Nat.le_of_lt_succ hrun)) hl ⟨le_rfl, le_rfl⟩
    · exact hweigh (weigh_resync limit x hl hun hrun) rfl ⟨le_rfl, toNat_le_raise _⟩

/-! ### The run -/

/-- A request of a run: number, epoch, lane, arrival and silence timer. -/
abbrev Request := Seq × BitVec 4 × Lane × Stamp × Timer

/-- One request of a run: the record after it, and how far top has advanced. -/
def takeRequest (limit : Nat) (u : SourceRecord × Nat) (q : Request) : SourceRecord × Nat :=
  let v := (u.1.judge limit q.1 q.2.1 q.2.2.1 q.2.2.2.1 q.2.2.2.2).src
  (v, u.2 + (v.top - u.1.top).toNat)

/-- A run keeps a LIVE record LIVE, its restarts and resyncs are counted, and top's advance adds up. -/
theorem run_runLe (limit : Nat) (qs : List Request) (u : SourceRecord × Nat)
    (hl : u.1.live = true) :
    let w := qs.foldl (takeRequest limit) u
    w.1.live = true ∧ u.1.RunLe w.1 ∧ u.2 ≤ w.2 := by
  induction qs generalizing u with
  | nil => exact ⟨hl, ⟨le_rfl, le_rfl⟩, le_rfl⟩
  | cons q qs ih =>
    obtain ⟨hlive, hle⟩ := u.1.judge_runLe limit q.1 q.2.1 q.2.2.1 q.2.2.2.1 q.2.2.2.2 hl
    obtain ⟨hlive', hle', hadvance⟩ := ih (takeRequest limit u q) hlive
    exact ⟨hlive', hle.trans hle', (Nat.le_add_right ..).trans hadvance⟩

/-- A number stays taken over a run without restart or resync. -/
theorem taken_run (limit : Nat) {n : Seq} (qs : List Request) (u : SourceRecord × Nat)
    {d : Nat} (h : u.1.Taken n d) (hs : u.1.SameRun (qs.foldl (takeRequest limit) u).1)
    (hd : d + (qs.foldl (takeRequest limit) u).2 ≤ 32768 + u.2) :
    ∃ b, (qs.foldl (takeRequest limit) u).1.Taken n b := by
  induction qs generalizing u d with
  | nil => exact ⟨d, h⟩
  | cons q qs ih =>
    obtain ⟨hlive, hle⟩ := u.1.judge_runLe limit q.1 q.2.1 q.2.2.1 q.2.2.2.1 q.2.2.2.2 h.1
    obtain ⟨-, hle', hadvance⟩ := run_runLe limit qs (takeRequest limit u q) hlive
    obtain ⟨hnow, hlater⟩ := hs.between hle hle'
    rw [List.foldl_cons] at hd ⊢
    have hstep : (takeRequest limit u q).2 = u.2 +
        ((u.1.judge limit q.1 q.2.1 q.2.2.1 q.2.2.2.1 q.2.2.2.2).src.top - u.1.top).toNat := rfl
    exact ih _ (h.judge limit _ _ _ hnow (by omega)) hlater (by omega)

end Sys2Proof.Machine

open Sys2Proof Sys2Proof.Machine

/-- Settles O27: the FIRST copy takes the number, the run of requests leaves it taken, and a copy of a taken number is
not FIRST. -/
theorem noNumberIsFirstTwice : Obligations.NoNumberIsFirstTwice := by
  intro limit n first last taken r _ start run stop hfirst hadvance hrestarts hlimit hresyncs hlimit'
  have htaken : start.src.Taken n (start.src.top - n).toNat := SourceRecord.taken_of_first limit _ _ _ hfirst
  obtain ⟨hlive, hle, -⟩ := run_runLe limit taken (start.src, 0) htaken.1
  obtain ⟨-, hle'⟩ := run.1.judge_runLe limit n last.1 last.2.1 last.2.2.1 last.2.2.2 hlive
  obtain ⟨hrun, hstop⟩ := SourceRecord.SameRun.between (r := start.src) (q := stop.src)
    ⟨hrestarts, hlimit, hresyncs, hlimit'⟩ hle hle'
  obtain ⟨d, hstill⟩ := taken_run limit taken (start.src, 0) htaken hrun hadvance
  exact hstill.not_first limit _ _ _ hstop
end

section
/-! ## Queues, the arbiter and transmissions (R93 to R97, R170) -/

namespace Sys2Proof.Machine

/-! ### What lets an arbiter choose (R95, R170) -/

theorem Transmitter.isFree_iff (now : Nat) (t : Transmitter) :
    t.isFree now = true ↔ t = .free ∨ ∃ n, t = .gap n ∧ n ≤ now := by
  cases t <;> simp [Transmitter.isFree]

theorem Egress.hasEntry_iff (e : Egress) : e.hasEntry = true ↔ e.urgent ≠ [] ∨ e.stream ≠ [] ∨ e.bulk ≠ [] := by
  simp [Egress.hasEntry, or_assoc]

theorem Direction.holdsFrame_eq_false_iff (d : Direction) :
    d.holdsFrame = false ↔ ∀ f bytes, d.store f ≠ .holding bytes := by
  have hstore (x : Store) : x.isHolding = false ↔ ∀ bytes, x ≠ .holding bytes := by
    cases x <;> simp [Store.isHolding]
  simp [Direction.holdsFrame, hstore, Direction.store, and_comm]

theorem State.repeaterHolds_eq_false_iff (s : State) (p : Port) : s.repeaterHolds p = false ↔
    ∀ r : RingPort, p = r.port → ∀ f bytes, (s.dir r.opposite).store f ≠ .holding bytes := by
  cases hp : p.ring? with
  | none =>
    have hno (r : RingPort) : p ≠ r.port := by rintro rfl; simp at hp
    simp [State.repeaterHolds, hp, hno]
  | some q =>
    obtain rfl := Port.ring_port hp
    simp [State.repeaterHolds, State.dir, Direction.holdsFrame_eq_false_iff]

theorem exec_transmitterFree {p : Port} {s : State} (h : s.mayChoose p = true) :
    exec (.transmitterFree p) s = .next (settle (choose p (markChosen p s))) := by
  simp only [exec, execTransmitterFree, finish, h, if_true]

theorem exec_transmitterFree_of_not {p : Port} {s : State} (h : s.mayChoose p = false) :
    exec (.transmitterFree p) s = .next (settle s) := by
  simp [exec, execTransmitterFree, finish, h]

/-! ### The choice (R95 to R97) -/

@[simp] theorem setEg_setEg (p : Port) (e f : Egress) (s : State) : (s.setEg p e).setEg p f = s.setEg p f := by
  simp [State.setEg]

/-- The transmission of an entry that starts in a state (R97). -/
def transmission (p : Port) (e : Entry) (s : State) : Transmitter :=
  let bytes := shape p e.mark (s.buffer e.buf) s.clock.nodeTime
  .sending e.buf e.mark bytes (s.clock.refclk + 4 * (8 + bytes.length))

theorem startTransmission_setEg (p : Port) (e : Entry) (q : Egress) (s : State) :
    startTransmission p e (s.setEg p q) = s.setEg p { q with tx := transmission p e s } := by
  unfold startTransmission
  rw [setEg_setEg, eg_setEg, if_pos rfl]
  rfl

theorem choose_urgent {p : Port} {s : State} {e : Entry} {rest : List Entry} (h : (s.eg p).urgent = e :: rest) :
    choose p s = s.setEg p { s.eg p with urgent := rest, tx := transmission p e s } := by
  unfold choose
  rw [h]
  exact startTransmission_setEg ..

/-- The entries that are aged out end their holds and nothing else. -/
theorem releases_pool (es : List Entry) (s : State) : es.foldl (fun t e => release e.buf t) s =
    { s with pool := es.foldl (fun q e => q.release e.buf) s.pool } := by
  induction es generalizing s with
  | nil => rfl
  | cons e es ih => exact ih _

/-- A STREAM entry is too old to be sent (R96). -/
def State.isOld (s : State) : Entry → Bool := tooOld s.cfg.profile.streamAge s.clock.timerUnits

theorem State.isOld_iff (s : State) (e : Entry) : s.isOld e = true ↔
    s.cfg.profile.streamAge ≠ 0 ∧ s.cfg.profile.streamAge * 10 < (s.clock.timerUnits - e.joined).toNat := by
  simp [State.isOld, tooOld]

/-- The scheduler after `n` STREAM heads have been aged out and `kept` are left (R96). -/
def Egress.age (g : Egress) (n : Nat) (kept : List Entry) : Egress :=
  { g with stream := kept, counters := { g.counters with aged := raiseBy n g.counters.aged } }

section Ageing
variable {p : Port} {s : State} {before kept : List Entry}

theorem takeWhile_old (hs : (s.eg p).stream = before ++ kept) (hold : ∀ e ∈ before, s.isOld e = true)
    (hkept : ∀ e rest, kept = e :: rest → s.isOld e = false) :
    (s.eg p).stream.takeWhile s.isOld = before ∧ (s.eg p).stream.dropWhile s.isOld = kept := by
  rw [hs, List.takeWhile_append_of_pos hold, List.dropWhile_append_of_pos hold]
  cases kept with
  | nil => simp
  | cons e rest => simp [hkept e rest rfl]

/-- Without an URGENT entry the old STREAM heads are aged out, and then the head of STREAM is sent, or of BULK, or
none (R95, R96). -/
theorem choose_lower (hu : (s.eg p).urgent = []) (hs : (s.eg p).stream = before ++ kept)
    (hold : ∀ e ∈ before, s.isOld e = true) (hkept : ∀ e rest, kept = e :: rest → s.isOld e = false) :
    let aged := (s.eg p).age before.length kept
    let u : State := { s with pool := before.foldl (fun q e => q.release e.buf) s.pool }
    (∀ e rest, kept = e :: rest →
      choose p s = u.setEg p { aged with stream := rest, tx := transmission p e u }) ∧
    (∀ e rest, kept = [] → (s.eg p).bulk = e :: rest →
      choose p s = u.setEg p { aged with bulk := rest, tx := transmission p e u }) ∧
    (kept = [] → (s.eg p).bulk = [] → choose p s = u.setEg p aged) := by
  intro aged u
  obtain ⟨htake, hdrop⟩ := takeWhile_old hs hold hkept
  unfold State.isOld at htake hdrop
  have heg (q : Egress) : (u.setEg p q).eg p = q := (eg_setEg ..).trans (if_pos rfl)
  have hfold (q : Egress) : before.foldl (fun t e => release e.buf t) (s.setEg p q) = u.setEg p q :=
    releases_pool ..
  have hlower : choose p s = chooseLower p s := by
    unfold choose
    rw [hu]
  refine ⟨?_, ?_, ?_⟩
  · rintro e rest rfl
    simp only [hlower, chooseLower, htake, hdrop, hfold, heg, setEg_setEg, startTransmission_setEg]
    rfl
  · rintro e rest rfl hb
    simp only [hlower, chooseLower, htake, hdrop, hfold, heg, hb, setEg_setEg, startTransmission_setEg]
    rfl
  · rintro rfl hb
    simp only [hlower, chooseLower, htake, hdrop, hfold, heg, hb, aged, Egress.age]

end Ageing

/-! ### The end of a transmission (R97) -/

theorem exec_transmissionComplete {p : Port} {buf doneAt : Nat} {m : Mark} {bytes : List Byte} {s : State}
    (ht : (s.eg p).tx = .sending buf m bytes doneAt) (hd : doneAt ≤ s.clock.refclk) :
    exec (.transmissionComplete p) s = .next (settle (entryEnded m
      ({ s with pool := s.pool.release buf }.setEg p { s.eg p with
        tx := .gap (doneAt + 48)
        counters := { (s.eg p).counters with txFrames := raise (s.eg p).counters.txFrames } }))) := by
  have hdone : completeTransmission p buf m doneAt s = entryEnded m
      ({ s with pool := s.pool.release buf }.setEg p { s.eg p with
        tx := .gap (doneAt + 48)
        counters := { (s.eg p).counters with txFrames := raise (s.eg p).counters.txFrames } }) := by
    simp only [completeTransmission, State.countEg, eg_setEg, if_true, setEg_setEg]
    rfl
  simp only [exec, execTransmissionComplete, finish, ht, if_pos hd, hdone]

theorem exec_transmissionComplete_of_not {p : Port} {buf doneAt : Nat} {m : Mark} {bytes : List Byte} {s : State}
    (ht : (s.eg p).tx = .sending buf m bytes doneAt) (hd : s.clock.refclk < doneAt) :
    exec (.transmissionComplete p) s = .next (settle s) := by
  simp only [exec, execTransmissionComplete, finish, ht, if_neg (Nat.not_le.mpr hd)]

end Sys2Proof.Machine

open Sys2Proof Sys2Proof.Machine

/-- Settles O33, by the three cases of a request to enqueue. -/
theorem entriesJoinAtTheTail : Obligations.EntriesJoinAtTheTail := by
  intro p c b m s ended
  refine ⟨enqueue_joins b m, fun hd hfull => ?_, fun hd => ?_⟩
  · obtain ⟨h, -⟩ | ⟨-, -, h⟩ | ⟨-, h, -⟩ := enqueue_cases p c b m s
    · exact absurd (hd.symm.trans h) nofun
    · rw [h, entryEnded_eq]
      cases c <;> rfl
    · exact absurd h (Nat.not_lt.mpr hfull)
  · obtain ⟨-, h⟩ | ⟨h, -⟩ | ⟨h, -⟩ := enqueue_cases p c b m s
    · rw [h, entryEnded_eq]
      rfl
    · exact absurd (hd.symm.trans h) nofun
    · exact absurd (hd.symm.trans h) nofun

/-- Settles O35: the entry's end calls for no start, as the entry is no RESTART reply's. -/
theorem transmissionsComplete : Obligations.TransmissionsComplete := by
  intro p buf doneAt m bytes s ht
  refine ⟨fun hd hm => ?_, exec_transmissionComplete_of_not ht⟩
  rw [exec_transmissionComplete ht hd, entryEnded, if_neg hm]

/-- Settles O34: the first choice is marked, and then the queues are asked in the order of their classes. -/
theorem theArbiterChoosesByClass : Obligations.TheArbiterChoosesByClass := by
  intro p s g old sends
  refine ⟨?_, exec_transmitterFree_of_not, fun hm => ?_⟩
  · rw [State.mayChoose_iff, Transmitter.isFree_iff, Egress.hasEntry_iff, State.repeaterHolds_eq_false_iff]
  let v : State := markChosen p s
  have heg : v.eg p = { g with chosen := true } := (eg_setEg ..).trans (if_pos rfl)
  have hexec := exec_transmitterFree hm
  refine ⟨fun e rest hu => ?_, ?_⟩
  · have hsend (q : Egress) : v.setEg p q = s.setEg p q := setEg_setEg ..
    rw [hexec, choose_urgent (s := v) (by rw [heg]; exact hu), heg, hsend]
    rfl
  · intro before kept hu hs hold hkept aged u
    have hsend (q : Egress) : State.setEg { v with
        pool := before.foldl (fun q e => q.release e.buf) v.pool } p q = u.setEg p q := setEg_setEg (s := u) ..
    obtain ⟨hstream, hbulk, hnone⟩ := choose_lower (p := p) (s := v) (before := before) (kept := kept)
      (by rw [heg]; exact hu) (by rw [heg]; exact hs) (fun e he => (State.isOld_iff v e).mpr (hold e he))
      (fun e rest hk => by rw [← Bool.not_eq_true, State.isOld_iff]; exact hkept e rest hk)
    rw [heg] at hstream hbulk hnone
    refine ⟨fun e rest hk => ?_, fun e rest hk hb => ?_, fun hk hb => ?_⟩
    · rw [hexec, hstream e rest hk, hsend]
      rfl
    · rw [hexec, hbulk e rest hk hb, hsend]
      rfl
    · rw [hexec, hnone hk hb, hsend]
      rfl
end


section
/-! ## The holds on the frame pool's buffers (R87) -/

namespace Sys2Proof.Machine

/-! ### Reference counts -/

/-- The reference count of a buffer, 0 for a free one. -/
def Pool.refs (q : Pool) (i : Nat) : Nat := ((q.get? i).map Buffer.refs).getD 0

/-- A buffer in use has a reference count of at least 1 (R87). -/
theorem Pool.refs_pos {q : Pool} (h : q.wf = true) {i : Nat} {b : Buffer} (hb : q.get? i = some b) : 1 ≤ b.refs :=
  ((Pool.wf_iff.mp h).1 (i, b) ((lookup_rising (Pool.wf_rising h).2 i b).mp hb)).2

theorem Pool.refs_take {q : Pool} (h : q.wf = true) (i : Nat) :
    q.take.2.refs i = q.refs i + [q.take.1].count i := by
  obtain ⟨hfree, htake⟩ := Pool.get?_take h i
  unfold Pool.refs
  rw [htake]
  by_cases hi : i = q.take.1
  · subst hi; simp [hfree]
  · simp [hi, Ne.symm hi]

/-- A hold is added to a buffer in use. -/
theorem Pool.refs_addHold {q : Pool} {b : Nat} (hb : 1 ≤ q.refs b) (i : Nat) :
    (q.addHold b).refs i = q.refs i + [b].count i := by
  unfold Pool.refs at hb ⊢
  rw [Pool.addHold, Pool.get?_modify]
  by_cases hi : i = b
  · subst hi
    cases hg : q.get? i with
    | none => simp [hg] at hb
    | some c => simp
  · simp [hi, Ne.symm hi]

/-- A hold on a buffer in use ends. -/
theorem Pool.refs_release {q : Pool} (h : q.wf = true) {b : Nat} (hb : 1 ≤ q.refs b) (i : Nat) :
    (q.release b).refs i + [b].count i = q.refs i := by
  unfold Pool.refs at hb ⊢
  rw [Pool.get?_release h]
  by_cases hi : i = b
  · subst hi
    cases hg : q.get? i with
    | none => simp [hg] at hb
    | some c =>
      have hpos := Pool.refs_pos h hg
      by_cases h1 : c.refs ≤ 1
      · simp [h1]; omega
      · simp [h1]; omega
  · simp [hi, Ne.symm hi]

/-- Writing a frame into a buffer leaves every count. -/
theorem Pool.refs_fill (q : Pool) (b : Nat) (bytes : List Byte) (f : Bool) (i : Nat) :
    (q.modify b fun c => { c with bytes := bytes, hasFcs := f }).refs i = q.refs i := by
  unfold Pool.refs
  rw [Pool.get?_modify]
  by_cases hi : i = b
  · rw [if_pos hi]; cases q.get? i <;> rfl
  · rw [if_neg hi]

/-! ### The law within a command -/

theorem count_cons_add (b : Nat) (l : List Nat) (i : Nat) : (b :: l).count i = l.count i + [b].count i := by
  rw [List.count_cons, List.count_singleton]

/-- The pool's law within a command: beside the holds of the state, the command itself holds each buffer of `l` as often
as it stands there. -/
def HoldsWith (l : List Nat) (s : State) : Prop :=
  s.pool.wf = true ∧ ∀ i, s.pool.refs i = s.holds i + l.count i

theorem holdsWith_nil (s : State) : HoldsWith [] s ↔ s.HoldsLaw := by
  simp [HoldsWith, State.HoldsLaw, Pool.refs]

section Rules
variable {s : State} {l k : List Nat}

theorem HoldsWith.in_use (h : HoldsWith l s) {b : Nat} (hb : b ∈ l) : 1 ≤ s.pool.refs b := by
  have := List.count_pos_iff.mpr hb
  rw [h.2 b]
  omega

/-! What the blocks hold is replaced, and the command takes or gives the difference. -/

theorem holds_setPort (p : Port) (u : PortUnit) (i : Nat) :
    (s.setPort p u).holds i + (s.port p).rx.holds i = s.holds i + u.rx.holds i := by
  cases p <;> simp [State.holds, State.eg] <;> omega

theorem holds_setEg (p : Port) (e : Egress) (i : Nat) :
    (s.setEg p e).holds i + (s.eg p).holds i = s.holds i + e.holds i := by
  cases p <;> simp [State.holds, State.port] <;> omega

theorem HoldsWith.setPort (h : HoldsWith l s) {p : Port} {u : PortUnit}
    (hu : ∀ i, u.rx.holds i + k.count i = (s.port p).rx.holds i + l.count i) : HoldsWith k (s.setPort p u) :=
  ⟨h.1, fun i => by
    have hs := holds_setPort (s := s) p u i
    have hi := hu i
    rw [show (s.setPort p u).pool = s.pool from rfl, h.2 i]
    omega⟩

theorem HoldsWith.setEg (h : HoldsWith l s) {p : Port} {e : Egress}
    (he : ∀ i, e.holds i + k.count i = (s.eg p).holds i + l.count i) : HoldsWith k (s.setEg p e) :=
  ⟨h.1, fun i => by
    have hs := holds_setEg (s := s) p e i
    have hi := he i
    rw [show (s.setEg p e).pool = s.pool from rfl, h.2 i]
    omega⟩

/-- A change of a port unit that leaves its receiver. -/
theorem HoldsWith.sameRx (h : HoldsWith l s) {p : Port} {u : PortUnit} (hu : u.rx = (s.port p).rx) :
    HoldsWith l (s.setPort p u) := h.setPort fun _ => by rw [hu]

/-! ### Updates of one part -/

theorem HoldsWith.release {b : Nat} (h : HoldsWith (b :: l) s) : HoldsWith l (release b s) := by
  refine ⟨Pool.release_wf h.1, fun i => ?_⟩
  have hr := Pool.refs_release h.1 (h.in_use (List.mem_cons_self ..)) i
  have hi := h.2 i
  have hc := count_cons_add b l i
  change (s.pool.release b).refs i = s.holds i + l.count i
  omega

theorem HoldsWith.take (h : HoldsWith l s) (hf : 0 < s.free) :
    HoldsWith (s.pool.take.1 :: l) { s with pool := s.pool.take.2 } := by
  refine ⟨Pool.take_wf h.1 hf, fun i => ?_⟩
  have hr := Pool.refs_take h.1 i
  have hi := h.2 i
  have hc := count_cons_add s.pool.take.1 l i
  change s.pool.take.2.refs i = s.holds i + _
  omega

theorem HoldsWith.fillBuffer (h : HoldsWith l s) (b : Nat) (bytes : List Byte) (f : Bool) :
    HoldsWith l (fillBuffer b bytes f s) :=
  ⟨Pool.modify_wf h.1 fun _ hb => hb, fun i => (Pool.refs_fill ..).trans (h.2 i)⟩

/-- A hold is added for the command itself on a buffer that it holds. -/
theorem HoldsWith.addHold (h : HoldsWith l s) {b : Nat} (hb : b ∈ l) :
    HoldsWith (b :: l) { s with pool := s.pool.addHold b } := by
  refine ⟨Pool.addHold_wf h.1, fun i => ?_⟩
  have hr := Pool.refs_addHold (h.in_use hb) i
  have hi := h.2 i
  have hc := count_cons_add b l i
  change (s.pool.addHold b).refs i = s.holds i + _
  omega

/-- A frame is handed to the ring filter. -/
theorem HoldsWith.hands {b : Nat} (h : HoldsWith (b :: l) s) (p : RingPort) (t : Stamp) :
    HoldsWith l { s with handed := s.handed.set p (s.handed.get p ++ [⟨b, t⟩]) } := by
  refine ⟨h.1, fun i => (h.2 i).trans ?_⟩
  cases p <;> simp [State.holds, State.port, State.eg, PerRing.set, PerRing.get, List.count_cons] <;> omega

/-- The ring filter takes the oldest frame of a port. -/
theorem HoldsWith.takesHanded (h : HoldsWith l s) {p : RingPort} {x : Handed} {rest : List Handed}
    (hx : s.handed.get p = x :: rest) : HoldsWith (x.buf :: l) { s with handed := s.handed.set p rest } := by
  refine ⟨h.1, fun i => (h.2 i).trans ?_⟩
  cases p <;> simp_all [State.holds, State.port, State.eg, PerRing.set, PerRing.get, List.count_cons,
    List.countP_cons] <;> omega

theorem HoldsWith.rollJoins {b : Nat} (h : HoldsWith (b :: l) s) (p : RingPort) (own : Bool) :
    HoldsWith l { s with rollIn := s.rollIn ++ [⟨b, p, own⟩] } := by
  refine ⟨h.1, fun i => (h.2 i).trans ?_⟩
  simp [State.holds, State.port, State.eg, List.count_cons]
  omega

/-- The roll unit takes a roll. -/
theorem HoldsWith.takesRoll (h : HoldsWith l s) {r : RollIn} {rest : List RollIn}
    (hr : s.rollIn.Perm (r :: rest)) : HoldsWith (r.buf :: l) { s with rollIn := rest } := by
  refine ⟨h.1, fun i => (h.2 i).trans ?_⟩
  simp only [State.holds, State.port, State.eg, List.count_cons, hr.countP_eq, List.countP_cons]
  omega

theorem HoldsWith.commandJoins {b : Nat} (h : HoldsWith (b :: l) s) :
    HoldsWith l { s with commandIn := s.commandIn ++ [b] } := by
  refine ⟨h.1, fun i => (h.2 i).trans ?_⟩
  simp [State.holds, State.port, State.eg, List.count_cons]
  omega

/-- The report unit reads the oldest frame handed to it. -/
theorem HoldsWith.takesCommand (h : HoldsWith l s) {b : Nat} {rest : List Nat} (hb : s.commandIn = b :: rest) :
    HoldsWith (b :: l) { s with commandIn := rest } := by
  refine ⟨h.1, fun i => (h.2 i).trans ?_⟩
  simp only [State.holds, State.port, State.eg, List.count_cons, hb, List.countP_cons]
  omega

/-! ### Notes, counters and marks -/

theorem HoldsWith.note (h : HoldsWith l s) (i : Item) : HoldsWith l (note i s) := by
  rw [note_eq]; exact h

theorem HoldsWith.noteIf (h : HoldsWith l s) (c : Bool) (i : Item) : HoldsWith l (noteIf c i s) := by
  rw [noteIf_eq]; exact h

theorem HoldsWith.addNotice (h : HoldsWith l s) (n : Notice) : HoldsWith l (addNotice n s) := by
  unfold Machine.addNotice
  split <;> exact h

theorem HoldsWith.entryEnded (h : HoldsWith l s) (m : Mark) : HoldsWith l (entryEnded m s) := by
  rw [entryEnded_eq]; exact h

theorem HoldsWith.countEg (h : HoldsWith l s) (p : Port) (f : EgressCounters → EgressCounters) :
    HoldsWith l (s.countEg p f) := h.setEg fun _ => rfl

theorem HoldsWith.countPort (h : HoldsWith l s) (p : Port) (f : PortCounters → PortCounters) :
    HoldsWith l (s.countPort p f) := h.sameRx rfl

theorem HoldsWith.indEvent (h : HoldsWith l s) (p : Port) (k : IndEvent) : HoldsWith l (indEvent p k s) := by
  unfold Machine.indEvent
  split
  · exact h
  · refine HoldsWith.noteIf ?_ _ _
    exact h.sameRx rfl

theorem HoldsWith.refuseAdmission (h : HoldsWith l s) (p : Port) : HoldsWith l (refuseAdmission p s) :=
  (h.countPort p _).indEvent p .pool

/-! ### Entries -/

theorem Egress.holds_setQueue (e : Egress) (c : Class) (x : Entry) (i : Nat) :
    (e.setQueue c (e.queue c ++ [x])).holds i = e.holds i + [x.buf].count i := by
  cases c <;> simp [Egress.holds, Egress.setQueue, Egress.queue, entryHolds, List.count_cons] <;> omega

/-- An entry that joins adds its own hold, and one that does not adds none (R87, R93). -/
theorem HoldsWith.enqueue (h : HoldsWith l s) {b : Nat} (hb : b ∈ l) (p : Port) (c : Class) (m : Mark) :
    HoldsWith l (enqueue p c b m s) := by
  obtain ⟨-, he⟩ | ⟨-, -, he⟩ | ⟨-, -, he⟩ := enqueue_cases p c b m s <;> rw [he]
  · exact (h.countEg p _).entryEnded m
  · exact (h.countEg p _).entryEnded m
  · refine (h.addHold hb).setEg (p := p) fun i => ?_
    have hc := count_cons_add b l i
    rw [Egress.holds_setQueue]
    change (s.eg p).holds i + [b].count i + _ = (s.eg p).holds i + _
    omega

/-- A generator's entries hold its buffer, and its own hold ends (R91). -/
theorem HoldsWith.enqueueRing {b : Nat} (h : HoldsWith (b :: l) s) (east west : Bool) (c : Class) (m : Mark) :
    HoldsWith l (enqueueRing east west c b m s) := by
  have hb : b ∈ b :: l := List.mem_cons_self ..
  unfold Machine.enqueueRing
  refine HoldsWith.release ?_
  cases east <;> cases west
  · exact h
  · exact h.enqueue hb ..
  · exact h.enqueue hb ..
  · exact (h.enqueue hb ..).enqueue hb ..

theorem HoldsWith.sendLocal {b : Nat} (h : HoldsWith (b :: l) s) (c : List Byte) (r : Bool) :
    HoldsWith l (sendLocal b c r s) :=
  ((h.fillBuffer b _ false).enqueue (List.mem_cons_self ..) ..).release

/-! ### Reports and replies -/

theorem HoldsWith.composeLocal {done : State → State} (h : HoldsWith l s)
    (hd : ∀ t, HoldsWith l t → HoldsWith l (done t)) (c : State → List Byte) (r : Bool) :
    HoldsWith l (composeLocal c r done s) := by
  unfold Machine.composeLocal
  obtain ⟨hf, ht⟩ | ⟨-, ht⟩ := generatorTake_cases .bulk s <;> rw [ht]
  · exact hd _ ((h.take (Nat.zero_lt_of_lt hf)).sendLocal _ r)
  · exact h

theorem HoldsWith.headReplied (h : HoldsWith l s) : HoldsWith l (headReplied s) := by
  unfold Machine.headReplied
  split
  · exact h
  · split <;> exact h

theorem HoldsWith.composeReply (h : HoldsWith l s) : HoldsWith l (composeReply s) := by
  unfold Machine.composeReply
  split
  · exact h
  · split
    · exact h
    · split
      · exact h
      · refine h.composeLocal (fun t ht => ?_) _ _
        exact ht.headReplied

theorem HoldsWith.composeWaiting (h : HoldsWith l s) : HoldsWith l (composeWaiting s) := by
  unfold Machine.composeWaiting
  split
  · exact h.composeLocal (done := fun t => reportMade (noticeReported t)) (fun _ ht => ht) _ false
  · split
    · exact h.composeLocal (done := fun t => reportMade (listReported t)) (fun _ ht => ht) _ false
    · exact h

theorem HoldsWith.reportService (h : HoldsWith l s) : HoldsWith l (reportService s) := by
  unfold Machine.reportService
  split
  · exact h.composeWaiting
  · exact h

theorem HoldsWith.started (h : s.Started) : HoldsWith [] s := by
  obtain ⟨-, hports, hhanded, hroll, hcommand, -, -, -, hpool, hegress, -⟩ := h
  refine ⟨by rw [hpool]; rfl, fun i => ?_⟩
  simp only [State.holds, State.eg, hports, hhanded, hroll, hcommand, hpool, hegress]
  rfl

/-! ### Rounds of roll call -/

theorem HoldsWith.closeRound (h : HoldsWith l s) : HoldsWith l (closeRound s) := by
  unfold Machine.closeRound
  refine HoldsWith.note (HoldsWith.addNotice ?_ _) .roll
  exact h

theorem HoldsWith.sendRoll (h : HoldsWith l s) : HoldsWith l (sendRoll s).2 := by
  unfold Machine.sendRoll
  obtain ⟨hf, ht⟩ | ⟨-, ht⟩ := generatorTake_cases .urgent s <;> rw [ht]
  · exact ((h.take hf).fillBuffer ..).enqueueRing ..
  · exact h

theorem HoldsWith.beginRound (h : HoldsWith l s) (c : RollCause) : HoldsWith l (beginRound c s) := by
  have ho : HoldsWith l (openRound c s) := h
  unfold Machine.beginRound
  refine HoldsWith.note (HoldsWith.addNotice ?_ _) .roll
  split
  · exact ho
  · exact ho.sendRoll

theorem HoldsWith.startLastRound (h : HoldsWith l s) (c : RollCause) : HoldsWith l (startLastRound c s) := by
  unfold Machine.startLastRound
  dsimp only
  split
  · exact (h.beginRound c).closeRound
  · exact h.beginRound c

theorem HoldsWith.endRound (h : HoldsWith l s) : HoldsWith l (endRound s) := by
  have hc : HoldsWith l (Machine.closeRound { s with roll := { s.roll with again := false } }) :=
    HoldsWith.closeRound h
  unfold Machine.endRound
  dsimp only
  split
  · exact hc.startLastRound .again
  · exact hc

theorem HoldsWith.startRound (h : HoldsWith l s) (c : RollCause) : HoldsWith l (startRound c s) := by
  unfold Machine.startRound
  dsimp only
  split
  · exact (h.beginRound c).endRound
  · exact h.beginRound c

theorem HoldsWith.haltRound (h : HoldsWith l s) : HoldsWith l (haltRound s) := by
  unfold Machine.haltRound
  split
  · exact HoldsWith.note (HoldsWith.addNotice (by exact h) _) .roll
  · exact h

theorem HoldsWith.ringChanged (h : HoldsWith l s) : HoldsWith l (ringChanged s) := by
  unfold Machine.ringChanged Machine.autoTrigger
  dsimp only
  split
  · split
    · exact (h.note .ring).reportService
    · exact (h.note .ring).reportService.startRound .auto
  · exact h.note .ring

theorem HoldsWith.tellLanes (h : HoldsWith l s) (old : RingCheck) : HoldsWith l (tellLanes old s) := by
  have hn := (h.noteIf (s.check.lanes.e.state != old.lanes.e.state) (.lane .e)).noteIf
    (s.check.lanes.w.state != old.lanes.w.state) (.lane .w)
  unfold Machine.tellLanes
  dsimp only
  split
  · exact hn
  · exact hn.ringChanged

/-- A roll that leaves the node in a new frame: the old buffer's hold ends, and the new frame's entry alone holds
its (R154). -/
theorem HoldsWith.passRoll {b : Nat} (h : HoldsWith (b :: l) s) (p : RingPort) (body trailer : List Byte) :
    HoldsWith l (passRoll p b body trailer s) := by
  unfold Machine.passRoll
  obtain ⟨hf, ht⟩ | ⟨-, ht⟩ := generatorTake_cases .urgent s <;> rw [ht]
  · have hnew := h.take hf
    refine HoldsWith.release ?_
    split
    · exact ((hnew.fillBuffer ..).enqueue (List.mem_cons_self ..) ..).release
    · split
      · exact (HoldsWith.enqueue (l := s.pool.take.1 :: b :: l) (by exact hnew.fillBuffer ..)
          (List.mem_cons_self ..) ..).release
      · exact HoldsWith.release (by exact hnew)
  · exact HoldsWith.release (by exact h)

theorem HoldsWith.outwardRoll {b : Nat} (h : HoldsWith (b :: l) s) (p : RingPort) :
    HoldsWith l (outwardRoll p b s) := by
  unfold Machine.outwardRoll
  dsimp only
  split
  · exact HoldsWith.release (by exact h)
  · split
    · exact h.passRoll ..
    · exact HoldsWith.passRoll (by exact h) ..

theorem HoldsWith.homewardRoll {b : Nat} (h : HoldsWith (b :: l) s) (p : RingPort) :
    HoldsWith l (homewardRoll p b s) := by
  unfold Machine.homewardRoll
  split
  · exact HoldsWith.release (by exact h)
  · exact (h.enqueue (List.mem_cons_self ..) ..).release

theorem HoldsWith.takeRoll {b : Nat} (h : HoldsWith (b :: l) s) (p : RingPort) (t : Trailer) (body : List Byte) :
    HoldsWith l (takeRoll p b t body s) := by
  unfold Machine.takeRoll
  split
  · exact HoldsWith.release (by exact h)
  · rename_i r _
    have hr : HoldsWith l (Machine.release b { s with roll := { s.roll with
        lanes := s.roll.lanes.set t.lane
          { result := r, entries := rollEntries body, full := rollFull body } } }) := HoldsWith.release (by exact h)
    dsimp only
    split
    · exact hr.endRound
    · exact hr

/-! ### CHECK and TIME frames -/

theorem HoldsWith.sendCheck (h : HoldsWith l s) : HoldsWith l (sendCheck s) := by
  unfold Machine.sendCheck
  dsimp only
  split
  · obtain ⟨hf, ht⟩ | ⟨-, ht⟩ := generatorTake_cases .urgent s <;> rw [ht]
    · exact ((h.take hf).fillBuffer ..).enqueueRing ..
    · exact h
  · exact h

theorem HoldsWith.sendTime (h : HoldsWith l s) : HoldsWith l (sendTime s) := by
  unfold Machine.sendTime
  dsimp only
  split
  · obtain ⟨hf, ht⟩ | ⟨-, ht⟩ := generatorTake_cases .urgent s <;> rw [ht]
    · exact HoldsWith.enqueueRing (by exact (h.take hf).fillBuffer ..) ..
    · exact h
  · exact h

/-! ### The ring filter -/

theorem HoldsWith.requestVerdict (h : HoldsWith l s) (t : Trailer) (a : Stamp) :
    HoldsWith l (requestVerdict t a s).2 := by
  obtain ⟨report, he⟩ := requestVerdict_eq t a s
  rw [he]
  exact h

theorem HoldsWith.tellStreamWatch (h : HoldsWith l s) (n : CopyNotice) : HoldsWith l (tellStreamWatch n s) := by
  obtain ⟨slots, report, he⟩ := tellStreamWatch_eq n s
  rw [he]
  exact h

theorem HoldsWith.deliver {b : Nat} (h : HoldsWith l s) (hb : b ∈ l) (p : RingPort) (c : Class) (body : List Byte) :
    HoldsWith l (deliver p b c body s) := by
  unfold Machine.deliver
  split
  · exact HoldsWith.enqueue (by exact h) hb ..
  · exact h

theorem HoldsWith.forward {b : Nat} (h : HoldsWith l s) (hb : b ∈ l) (p : RingPort) (c : Class) :
    HoldsWith l (forward p b c s) := by
  unfold Machine.forward
  split
  · exact h
  · exact HoldsWith.enqueue (by exact h) hb ..

/-- A frame's end at the ring filter releases it, forwarded or not (R54). -/
theorem HoldsWith.sendOn {b : Nat} (h : HoldsWith (b :: l) s) (p : RingPort) (c : Class) (candidate : Bool) :
    HoldsWith l (sendOn p b c candidate s) := by
  unfold Machine.sendOn
  refine HoldsWith.release ?_
  split
  · exact h.forward (List.mem_cons_self ..) p c
  · exact h

theorem HoldsWith.clashFrame {b : Nat} (h : HoldsWith (b :: l) s) : HoldsWith l (clashFrame b s) := by
  obtain ⟨report, he⟩ := clashFrame_eq b s
  rw [he]
  exact h.release

theorem HoldsWith.ownFrame {x : Handed} (h : HoldsWith (x.buf :: l) s) (p : RingPort) (k : Kind) (b : Buffer) :
    HoldsWith l (ownFrame p x k b s) := by
  have hnumbered : HoldsWith l (if inReturnWindow s.tagger.seq b.trailer.seq then returnedFrame p x.buf s
      else Machine.clashFrame x.buf s) := by
    split
    · exact HoldsWith.release (by exact h)
    · exact h.clashFrame
  cases k with
  | data => exact hnumbered
  | time => exact hnumbered
  | check =>
    unfold Machine.ownFrame takeReturn changeLane
    dsimp only
    split
    · refine HoldsWith.release ?_
      split <;> exact HoldsWith.tellLanes (by exact h) _
    · exact h.clashFrame
  | roll => exact h.rollJoins p true

theorem HoldsWith.crossedMark (h : HoldsWith l s) (p : RingPort) (c : Bool) : HoldsWith l (crossedMark p c s) := by
  unfold Machine.crossedMark
  split
  · exact HoldsWith.indEvent (by exact h) ..
  · exact h

theorem HoldsWith.toldCopy (h : HoldsWith l s) (x : Handed) (b : Buffer) (first : Bool) :
    HoldsWith l (toldCopy x b first s) := (h.requestVerdict ..).tellStreamWatch _

theorem HoldsWith.dataTaken {x : Handed} (h : HoldsWith l s) (hx : x.buf ∈ l) (p : RingPort) (b : Buffer) :
    HoldsWith l (dataTaken p x b s) := by
  unfold Machine.dataTaken
  split
  · exact (h.toldCopy x b true).deliver hx ..
  · exact h.toldCopy x b false
  · exact h.requestVerdict ..

theorem HoldsWith.timeTaken (h : HoldsWith l s) (b : Buffer) (a : Stamp) : HoldsWith l (timeTaken b a s) := by
  unfold Machine.timeTaken
  dsimp only
  split
  · exact h.requestVerdict b.trailer a
  · exact h.requestVerdict ..

theorem HoldsWith.dispatch {x : Handed} (h : HoldsWith (x.buf :: l) s) (p : RingPort) (k : Kind) (b : Buffer)
    (e : Bool) : HoldsWith l (dispatch p x k b e s) := by
  cases k with
  | data =>
    show HoldsWith l (peerData p x b e s)
    rw [peerData_eq]
    exact (h.dataTaken (List.mem_cons_self ..) p b).sendOn ..
  | time =>
    show HoldsWith l (peerTime p x b e s)
    rw [peerTime_eq]
    exact (h.timeTaken b x.arrival).sendOn ..
  | check => exact h.sendOn ..
  | roll =>
    unfold Machine.dispatch
    dsimp only
    split
    · exact h.release
    · exact h.rollJoins p false

/-- A frame goes through the stages, and its reception's hold ends or passes to the roll unit (R54). -/
theorem HoldsWith.filterFrame {x : Handed} (h : HoldsWith (x.buf :: l) s) (p : RingPort) :
    HoldsWith l (filterFrame p x s) := by
  unfold Machine.filterFrame
  dsimp only
  split
  · exact (HoldsWith.indEvent (by exact h) ..).release
  · have hm := h.crossedMark p
    split
    · exact (hm _).release.refuseAdmission _
    · split
      · exact (hm _).ownFrame ..
      · rw [peerFrame_eq]
        refine HoldsWith.dispatch ?_ ..
        unfold countExpired
        split
        · exact hm _
        · exact hm _

/-! ### Reception -/

theorem HoldsWith.storeStart (h : HoldsWith l s) {p : Port} (hi : (s.port p).rx = .idle) :
    HoldsWith l (storeStart p s) := by
  obtain hf | hf := Nat.eq_zero_or_pos s.free
  · rw [storeStart_of_none hf]
    refine HoldsWith.indEvent (HoldsWith.countPort ?_ ..) ..
    exact h.setPort fun i => by rw [hi]; rfl
  · rw [storeStart_of_free hf]
    refine (h.take hf).setPort fun i => ?_
    have hc := count_cons_add s.pool.take.1 l i
    rw [show (State.port { s with pool := s.pool.take.2 } p).rx = .idle from hi, hc]
    simp [Receiver.holds, List.count_cons, Nat.add_comm]

theorem HoldsWith.startReception (h : HoldsWith l s) {p : Port} (hi : (s.port p).rx = .idle) :
    HoldsWith l (startReception p s) := by
  have hrx (r : Receiver) (hr : ∀ i, r.holds i = 0) (t : State) (ht : HoldsWith l t)
      (hp : (t.port p).rx = .idle) : HoldsWith l (t.setPort p { s.port p with rx := r }) :=
    ht.setPort fun i => by rw [hp, hr i]; rfl
  unfold Machine.startReception
  split
  · rename_i r hr
    split
    · exact h.storeStart hi
    · obtain rfl := Port.ring_port hr
      unfold Machine.repeatStart
      dsimp only
      split
      · exact hrx _ (fun _ => rfl) _ (by exact h) hi
      · split
        · exact hrx _ (fun _ => rfl) _ (by exact h) hi
        · exact hrx _ (fun _ => rfl) _ h hi
  · split
    · exact hrx _ (fun _ => rfl) _ h hi
    · exact h.storeStart hi

/-- A reception is dropped with its buffer, and the receiver holds none (R6, R8, R10). -/
theorem HoldsWith.dropReception (h : HoldsWith l s) {p : Port} {u : PortUnit} (hu : ∀ i, u.rx.holds i = 0) :
    HoldsWith l ((dropReception p s).setPort p u) := by
  cases hr : (s.port p).rx with
  | storing b =>
    rw [dropReception_storing hr]
    refine HoldsWith.release (s := s.setPort p u) (h.setPort fun i => ?_)
    have hc := count_cons_add b l i
    rw [hu i, hr, hc]
    simp [Receiver.holds, List.count_cons, Nat.add_comm]
  | _ =>
    refine HoldsWith.setPort (l := l) ?_ fun i => ?_
    · rw [dropReception_eq, hr]
      exact h
    · rw [dropReception_port, hu i, hr]
      rfl

theorem HoldsWith.originate {b : Nat} (h : HoldsWith (b :: l) s) (c : Class) : HoldsWith l (originate b c s) := by
  unfold Machine.originate
  dsimp only
  split
  · exact HoldsWith.enqueueRing (by exact h) ..
  · exact HoldsWith.release (by exact h)

/-- A stored frame is handed on with the reception's hold (R9). -/
theorem HoldsWith.handOn {b : Nat} (h : HoldsWith (b :: l) s) (p : Port) (bytes : List Byte) :
    HoldsWith l (handOn p b bytes s) := by
  have hf := (h.countPort p (fun k => { k with rxGood := raise k.rxGood })).fillBuffer b bytes true
  unfold Machine.handOn
  dsimp only
  split
  · exact hf.hands _ _
  · unfold tapPath
    split
    · exact hf.commandJoins
    · split
      · dsimp only
        split
        · exact hf.originate _
        · exact hf.release.refuseAdmission _
      · exact hf.release

/-! ### Transmitters -/

theorem Transmitter.holds_of_isFree {t : Transmitter} {now : Nat} (h : t.isFree now = true) (i : Nat) :
    t.holds i = 0 := by
  cases t <;> simp_all [Transmitter.isFree, Transmitter.holds]

theorem HoldsWith.startRepeat (h : HoldsWith l s) (out : RingPort) : HoldsWith l (startRepeat out s) := by
  unfold Machine.startRepeat
  split
  · exact h
  · split
    · rename_i hm
      simp only [State.mayRepeat, Bool.and_eq_true, Bool.not_eq_true'] at hm
      refine HoldsWith.setEg (l := l) (by exact h) fun i => ?_
      have ht := Transmitter.holds_of_isFree hm.2 i
      change _ + _ + _ + 0 + _ = _ + _ + _ + (s.eg out.port).tx.holds i + _
      rw [ht]
      rfl
    · exact h

/-- An INTACT frame that stands in no pool buffer ends on the repeater path. -/
theorem HoldsWith.intactFrame (h : HoldsWith l s) {rx : Receiver} (hr : ∀ b, rx ≠ .storing b) (p : Port)
    (bytes : List Byte) : HoldsWith l (intactFrame p rx bytes s) := by
  unfold Machine.intactFrame repeatEnd
  split
  · exact absurd rfl (hr _)
  · split
    · exact h
    · exact HoldsWith.startRepeat (by exact h) _
  · exact h
  · exact h

theorem HoldsWith.endFrame (h : HoldsWith l s) (p : Port) (bytes : List Byte) (steps : Nat) :
    HoldsWith l (endFrame p bytes steps s) := by
  unfold Machine.endFrame
  dsimp only
  split
  · cases hr : (s.port p).rx with
    | storing b =>
      refine HoldsWith.handOn (h.setPort fun i => ?_) p bytes
      have hc := count_cons_add b l i
      rw [hr, hc]
      simp [Receiver.holds, List.count_cons, Nat.add_comm]
    | _ => exact HoldsWith.intactFrame (h.setPort fun i => by simp [hr, Receiver.holds]) (by simp) p bytes
  · exact h.dropReception fun i => rfl

/-! ### Egress schedulers -/

theorem entryHolds_eq_count (i : Nat) (q : List Entry) : entryHolds i q = (q.map Entry.buf).count i := by
  simp only [entryHolds, List.count, List.countP_map]
  rfl

/-- The holds of a scheduler are those of its entries and of its transmission (R87). -/
theorem Egress.holds_eq_count (e : Egress) (i : Nat) : e.holds i = (e.held.map Entry.buf).count i := by
  have ht : e.tx.holds i = (e.tx.held.map Entry.buf).count i := by
    cases e.tx <;> simp [Transmitter.holds, Transmitter.held, List.count_cons]
  simp only [Egress.holds, Egress.held, entryHolds_eq_count, ht, List.map_append, List.count_append]
  omega

theorem HoldsWith.releases {es : List Entry} (h : HoldsWith (es.map Entry.buf ++ l) s) :
    HoldsWith l (es.foldl (fun t e => Machine.release e.buf t) s) := by
  induction es generalizing s with
  | nil => exact h
  | cons e es ih => exact ih h.release

theorem HoldsWith.flushes {es : List Entry} (h : HoldsWith (es.map Entry.buf ++ l) s) :
    HoldsWith l (es.foldl (fun t e => flushEntry e t) s) := by
  induction es generalizing s with
  | nil => exact h
  | cons e es ih => exact ih (h.release.entryEnded e.mark)

theorem HoldsWith.flush (h : HoldsWith l s) (p : Port) : HoldsWith l (flush p s) := by
  unfold Machine.flush
  refine HoldsWith.flushes (h.setEg fun i => ?_)
  rw [List.count_append, Egress.holds_eq_count (s.eg p), ← Nat.add_assoc]
  simp [Egress.holds, entryHolds, Transmitter.holds]

theorem HoldsWith.fallen (h : HoldsWith l s) (p : Port) : HoldsWith l (fallen p s) := by
  have hf : HoldsWith l (Machine.flush p ((Machine.dropReception p s).setPort p
      ((Machine.dropReception p s).port p).enterDown)) := HoldsWith.flush (h.dropReception fun i => rfl) p
  unfold Machine.fallen breakLanes
  dsimp only
  split
  · split <;> exact hf
  · exact hf

theorem transmission_holds (p : Port) (e : Entry) (t : State) (i : Nat) :
    (transmission p e t).holds i = [e.buf].count i := by
  simp [transmission, Transmitter.holds, List.count_cons]

/-- The entries that are aged out end their holds, and the entry that is sent passes its hold on (R95, R96). -/
theorem HoldsWith.choose (h : HoldsWith l s) {p : Port} (ht : ∀ i, (s.eg p).tx.holds i = 0) :
    HoldsWith l (choose p s) := by
  cases hu : (s.eg p).urgent with
  | cons e rest =>
    rw [choose_urgent hu]
    refine h.setEg fun i => ?_
    simp only [Egress.holds, hu, entryHolds, List.countP_cons, transmission_holds, ht]
    simp [List.count_cons]
    omega
  | nil =>
    have hsplit : (s.eg p).stream.takeWhile s.isOld ++ (s.eg p).stream.dropWhile s.isOld = (s.eg p).stream :=
      List.takeWhile_append_dropWhile
    obtain ⟨hstream, hbulk, hnone⟩ := choose_lower hu hsplit.symm (fun e he => List.mem_takeWhile_imp he)
      fun e rest hk => by simpa [hk] using List.head?_dropWhile_not s.isOld (s.eg p).stream
    generalize (s.eg p).stream.takeWhile s.isOld = aged at *
    generalize (s.eg p).stream.dropWhile s.isOld = kept at *
    have hends {q : Egress} (hq : ∀ i, q.holds i + (aged.map Entry.buf).count i = (s.eg p).holds i) :
        HoldsWith l (State.setEg { s with pool := aged.foldl (fun q e => q.release e.buf) s.pool } p q) := by
      have hr := HoldsWith.releases (es := aged) (l := l) (h.setEg (p := p) (e := q) fun i => by
        rw [List.count_append, ← hq i, Nat.add_assoc])
      rwa [releases_pool] at hr
    have hheld (i : Nat) : (s.eg p).holds i =
        entryHolds i aged + entryHolds i kept + entryHolds i (s.eg p).bulk := by
      simp [Egress.holds, hu, ← hsplit, ht i, entryHolds]
    cases hk : kept with
    | cons e rest =>
      rw [hstream e rest hk]
      refine hends fun i => ?_
      rw [hheld i, hk, ← entryHolds_eq_count]
      simp only [Egress.holds, Egress.age, hu, entryHolds, List.countP_cons, transmission_holds]
      simp [List.count_cons]
      omega
    | nil =>
      cases hb : (s.eg p).bulk with
      | cons e rest =>
        rw [hbulk e rest hk hb]
        refine hends fun i => ?_
        rw [hheld i, hk, hb, ← entryHolds_eq_count]
        simp only [Egress.holds, Egress.age, hu, entryHolds, List.countP_cons, transmission_holds]
        simp [List.count_cons]
        omega
      | nil =>
        rw [hnone hk hb]
        refine hends fun i => ?_
        rw [hheld i, hk, hb, ← entryHolds_eq_count]
        simp [Egress.holds, Egress.age, hu, hb, ht i, entryHolds]

theorem HoldsWith.completeTransmission (h : HoldsWith l s) {p : Port} {buf doneAt : Nat} {m : Mark} {bytes : List Byte}
    (ht : (s.eg p).tx = .sending buf m bytes doneAt) : HoldsWith l (completeTransmission p buf m doneAt s) := by
  refine HoldsWith.entryEnded (HoldsWith.release (HoldsWith.countEg (h.setEg fun i => ?_) ..)) m
  simp only [Egress.holds, ht, count_cons_add buf l i]
  simp [Transmitter.holds, List.count_cons]
  omega

/-! ### The loader, starts and the end of a command -/

theorem HoldsWith.endLoading (h : HoldsWith l s) : HoldsWith l (endLoading s) := by
  unfold Machine.endLoading
  split
  · exact h
  · rename_i d _
    have hn : HoldsWith l (Machine.note .nodeState (fixConfiguration d s)) := HoldsWith.note (by exact h) _
    dsimp only
    split
    · unfold startMember beginPeriod
      dsimp only
      have hc (t : State) (ht : HoldsWith l t) : HoldsWith l (Machine.sendCheck t) := ht.sendCheck
      split
      · exact HoldsWith.sendTime (by exact hc _ (by exact hn))
      · exact hc _ (by exact hn)
    · exact hn

/-- A start of any cause takes every block back (R167). -/
theorem takeStart_started (c : StartCause) (s : State) : (takeStart c s).Started := by
  unfold takeStart
  cases c <;> cases s.pins.rst <;>
    exact ⟨rfl, fun p => by cases p <;> rfl, rfl, rfl, rfl, rfl, rfl, rfl, rfl, rfl, rfl, rfl, rfl, rfl, rfl, rfl,
      rfl, rfl, rfl, rfl, rfl, rfl, rfl⟩

theorem HoldsWith.settle (h : HoldsWith [] s) : HoldsWith [] (settle s) := by
  obtain ⟨-, he⟩ | ⟨-, -, -, he⟩ | ⟨-, -, he⟩ := settle_cases s <;> rw [he]
  · exact .started (takeStart_started ..)
  · exact h.composeWaiting
  · exact h

theorem HoldsWith.finish (h : HoldsWith [] s) : NextWith (HoldsWith []) (finish s) := ⟨_, rfl, h.settle⟩

theorem HoldsWith.carryOut (h : HoldsWith [] s) {effect : State → State} (he : HoldsWith [] (effect s))
    (code : Byte → Bool) (result : State → CommandResult) :
    NextWith (HoldsWith []) (carryOut code effect result s) := by
  refine HoldsWith.finish ?_
  split
  · refine HoldsWith.composeReply ?_
    unfold fixResult
    split <;> exact he
  · exact h

/-- The roll unit takes one of the rolls handed over, and leaves the others. -/
theorem takeFirst_perm {α : Type} {c : α → Bool} {l : List α} {r : α × List α} (h : takeFirst c l = some r) :
    l.Perm (r.1 :: r.2) := by
  induction l generalizing r with
  | nil => simp [takeFirst] at h
  | cons a l ih =>
    unfold takeFirst at h
    split at h
    · obtain rfl := Option.some.inj h
      exact .refl _
    · obtain ⟨x, hx, rfl⟩ := Option.map_eq_some_iff.mp h
      exact ((ih hx).cons a).trans (.swap ..)

end Rules

/-- Every command ends with each buffer held as often as its reference count says (R87). -/
theorem exec_holdsWith (c : Instr) {s : State} (h : HoldsWith [] s) : NextWith (HoldsWith []) (exec c s) := by
  cases c with
  | powerOn r e w t st => exact ⟨_, rfl, .started (takeStart_started ..)⟩
  | rstFall => exact ⟨_, rfl, .started (takeStart_started ..)⟩
  | rstRise st =>
    refine HoldsWith.finish ?_
    split <;> exact h
  | linkFall p =>
    have hl : HoldsWith [] (setLink p false s) := h
    refine HoldsWith.finish ?_
    split
    · exact hl.sameRx rfl
    · exact ((hl.fallen p).note _).tellLanes _
  | linkRise p =>
    have hl : HoldsWith [] (setLink p true s) := h
    refine HoldsWith.finish ?_
    split
    · exact hl.sameRx rfl
    · exact hl
  | qualificationExpiry p =>
    refine HoldsWith.finish ?_
    split
    · refine HoldsWith.note ?_ _
      exact h.sameRx rfl
    · exact h
  | scanWindowEnd p =>
    refine HoldsWith.finish ?_
    split
    · refine HoldsWith.noteIf ?_ _ _
      exact h.sameRx rfl
    · exact h
  | frameStart p =>
    refine HoldsWith.finish ?_
    split
    · exact h
    · rename_i hc
      exact h.startReception (by simp_all)
  | giant p =>
    refine HoldsWith.finish (h.dropReception fun i => ?_)
    rw [dropReception_port]
    cases (s.port p).rx <;> rfl
  | frameEnd p b n =>
    refine HoldsWith.finish ?_
    split
    · exact h
    · exact h.endFrame ..
  | ringFilter p =>
    refine HoldsWith.finish ?_
    split
    · exact h
    · split
      · exact (h.takesHanded (by assumption)).filterFrame p
      · exact h
  | peerRoll p =>
    refine HoldsWith.finish ?_
    split
    · exact h
    · have hr := h.takesRoll (takeFirst_perm (by assumption))
      dsimp only
      split
      · exact hr.homewardRoll p
      · exact hr.outwardRoll p
  | ownRoll p =>
    refine HoldsWith.finish ?_
    split
    · exact h
    · have hr := h.takesRoll (takeFirst_perm (by assumption))
      dsimp only
      split
      · exact HoldsWith.release (by exact hr)
      · split
        · exact HoldsWith.release (by exact hr)
        · exact hr.takeRoll ..
  | rollTimeoutExpiry =>
    refine HoldsWith.finish ?_
    split
    · exact HoldsWith.endRound (by exact h)
    · exact h
  | transmitterFree p =>
    refine HoldsWith.finish ?_
    split
    · obtain ⟨-, ht, -⟩ := State.mayChoose_iff.mp (by assumption)
      have hm : HoldsWith [] (markChosen p s) := h.setEg fun _ => rfl
      refine hm.choose fun i => ?_
      rw [markChosen_eq, eg_setEg, if_pos rfl]
      exact Transmitter.holds_of_isFree ht i
    · exact h
  | transmissionComplete p =>
    refine HoldsWith.finish ?_
    split
    · split
      · exact h.completeTransmission (by assumption)
      · exact h
    · exact h
  | repeaterTxComplete out =>
    refine HoldsWith.finish ?_
    split
    · rename_i ht
      split
      · refine HoldsWith.setEg (l := []) (by exact h) fun i => ?_
        change _ + _ + _ + 0 + _ = _ + _ + _ + (s.eg out.port).tx.holds i + _
        rw [ht]
        rfl
      · exact h
    · exact h
  | clashHoldExpiry =>
    refine HoldsWith.finish ?_
    split
    · exact HoldsWith.noteIf (by exact h) ..
    · exact h
  | silenceExpiry n =>
    refine HoldsWith.finish ?_
    dsimp only
    split
    · exact HoldsWith.note (by exact h) _
    · exact h
  | streamTimerExpiry n =>
    refine HoldsWith.finish ?_
    split
    · exact HoldsWith.noteIf (by exact h) ..
    · exact h
  | laneTimerExpiry n x =>
    refine HoldsWith.finish ?_
    split
    · exact HoldsWith.noteIf (by exact h) ..
    · exact h
  | startDeadlineExpiry n =>
    refine HoldsWith.finish ?_
    split
    · exact HoldsWith.noteIf (by exact h) ..
    · exact h
  | checkPeriodExpiry =>
    have hj : HoldsWith [] (judgePeriod s) := HoldsWith.tellLanes (by exact h) _
    refine HoldsWith.finish ?_
    split
    · exact HoldsWith.sendCheck (by exact hj)
    · exact h
  | timePeriodExpiry =>
    refine HoldsWith.finish ?_
    split
    · exact HoldsWith.sendTime (by exact h)
    · exact h
  | nodeCommand =>
    refine HoldsWith.finish ?_
    split
    · exact h
    · have hr := (h.takesCommand (by assumption)).release
      dsimp only
      unfold readCommand
      split
      · exact hr
      · split <;> exact hr
  | report => rw [exec_report]; exact h.carryOut (effect := id) h ..
  | roll =>
    show NextWith _ (execRoll s)
    unfold execRoll
    refine h.carryOut (effect := fun t => if t.roll.running then t else startRound .command t) ?_ ..
    split
    · exact h
    · exact h.startRound .command
  | haltRoll =>
    show NextWith _ (execHaltRoll s)
    unfold execHaltRoll
    exact h.carryOut h.haltRound ..
  | zero => rw [exec_zero]; exact h.carryOut (effect := zeroCounters) h ..
  | restart => rw [exec_restart]; exact h.carryOut (effect := id) h ..
  | badCommand => rw [exec_badCommand]; exact h.carryOut (effect := id) h ..
  | reportHoldExpiry =>
    refine HoldsWith.finish ?_
    split
    · have hr : HoldsWith [] (composeReply { s with report := { s.report with hold := none } }) :=
        HoldsWith.composeReply (by exact h)
      dsimp only
      split
      · exact hr.composeWaiting
      · exact hr
    · exact h
  | reportPeriodExpiry =>
    refine HoldsWith.finish ?_
    split <;> exact h
  | imageReadAttempt r =>
    refine HoldsWith.finish ?_
    split
    · unfold endAttempt imageDecided
      dsimp only
      have hl (l : Loader) : HoldsWith [] (endLoading { s with loader := l }) := HoldsWith.endLoading (by exact h)
      split
      · split
        · exact h
        · split
          · exact hl _
          · exact h
      · split
        · exact h
        · split
          · exact h
          · split
            · exact hl _
            · exact h
    · exact h
  | epochReadAttempt r =>
    refine HoldsWith.finish ?_
    split
    · unfold endEpochRead
      dsimp only
      split
      · exact h
      · split <;> exact h
    · exact h
  | epochWrite f =>
    refine HoldsWith.finish ?_
    split
    · cases f with
      | none => exact h
      | some f => exact HoldsWith.endLoading (by exact h)
    · exact h
  | epochPoll a =>
    refine HoldsWith.finish ?_
    split
    · dsimp only
      split
      · exact HoldsWith.endLoading (by exact h)
      · exact h
    · exact h
  | epochPollTimeout =>
    refine HoldsWith.finish ?_
    split
    · exact HoldsWith.endLoading (by exact h)
    · exact h
  | repeaterTransmitterFree out => exact HoldsWith.finish (h.startRepeat out)

/-- Every step keeps the pool's law: a REFCLK cycle holds and releases nothing. -/
theorem step_holdsWith {s : State} (h : HoldsWith [] s) : NextWith (HoldsWith []) (step s) := by
  unfold step
  split
  · exact ⟨_, rfl, h⟩
  · exact exec_holdsWith _ (by exact h)

end Sys2Proof.Machine

open Sys2Proof Sys2Proof.Machine

/-- Settles O32: within a command the buffers that it holds itself stand beside the holds of the state, and at its end
there are none. -/
theorem referenceCountsAreTheHolds : Obligations.ReferenceCountsAreTheHolds := by
  intro s t h hstep
  obtain ⟨u, hu, hl⟩ := step_holdsWith ((holdsWith_nil s).mpr h)
  rw [hstep] at hu
  cases hu
  exact (holdsWith_nil t).mp hl
end

section
/-! ## The bounds of queues, pool, change list, command queue and notices (R87, R88, R92, R181, R185, R186) -/

namespace Sys2Proof.Machine

/-! ### Laws of one part alone -/

/-- An update of a scheduler as its queues see it: each loses entries, or one joins a queue with room. -/
def QueueStep (a b : Egress) : Prop :=
  ∀ c, (b.queue c).Sublist (a.queue c) ∨ ((a.queue c).length < c.depth ∧ ∃ x, b.queue c = a.queue c ++ [x])

theorem QueueStep.of_eq {a b : Egress} (h : ∀ c, b.queue c = a.queue c) : QueueStep a b :=
  fun c => .inl (by rw [h c])

theorem EgressStep.queueStep {down : Bool} {a b : Egress} (h : EgressStep down a b) : QueueStep a b :=
  fun c => (h.queue c).imp id fun ⟨_, hroom, hx⟩ => ⟨hroom, hx⟩

/-- A law of each scheduler's queues, of the pool and of the report unit's lists, each by itself. -/
structure PartLaws where
  queues : Egress → Prop
  pool : Pool → Prop
  report : ReportUnit → Prop
  queueStep : ∀ a b, QueueStep a b → queues a → queues b
  poolStep : ∀ a b, PoolStep a b → pool a → pool b
  zeroed : ∀ a, pool a → pool { a with low := a.free, refused := 0 }
  reportStep : ∀ a b, ReportStep a b → report a → report b
  started : queues {} ∧ pool {} ∧ report {}

def PartLaws.Holds (P : PartLaws) (s : State) : Prop := (∀ p, P.queues (s.eg p)) ∧ P.pool s.pool ∧ P.report s.report

namespace PartLaws
variable (P : PartLaws) {s : State}

theorem setEg (h : P.Holds s) {p : Port} {e : Egress} (he : QueueStep (s.eg p) e) : P.Holds (s.setEg p e) := by
  refine ⟨fun q => ?_, h.2⟩
  rw [eg_setEg]
  split
  · exact P.queueStep _ _ he (h.1 p)
  · exact h.1 q

theorem releases (es : List Entry) {q : Pool} (h : P.pool q) : P.pool (es.foldl (fun q e => q.release e.buf) q) := by
  induction es generalizing q with
  | nil => exact h
  | cons e es ih => exact ih (P.poolStep _ _ (.release e.buf) h)

theorem dropReception (h : P.Holds s) (p : Port) : P.Holds (dropReception p s) := by
  rw [dropReception_eq]
  refine ⟨h.1, ?_, h.2.2⟩
  dsimp only
  split
  · exact P.poolStep _ _ (.release _) h.2.1
  · exact h.2.1

theorem startRepeat (h : P.Holds s) (out : RingPort) : P.Holds (startRepeat out s) := by
  unfold Machine.startRepeat
  split
  · exact h
  · split
    · refine P.setEg (s := s.setDir ..) h (.of_eq fun c => ?_)
      cases c <;> rfl
    · exact h

/-- A port's fall empties its queues and ends what they held (R102). -/
theorem fallen (h : P.Holds s) (p : Port) : P.Holds (fallen p s) := by
  have hempty := P.setEg h (p := p)
    (e := { urgent := [], stream := [], bulk := [], tx := .free, chosen := (s.eg p).chosen,
            counters := (s.eg p).counters.raiseFlushed (s.eg p).held.length })
    fun c => .inl (by cases c <;> exact List.nil_sublist _)
  rw [fallen_eq]
  exact ⟨hempty.1, P.releases _ (P.dropReception h p).2.1, P.reportStep s.report _ (.of_eq rfl rfl rfl) h.2.2⟩

theorem zero (h : P.Holds s) : P.Holds (zeroCounters s) := by
  refine ⟨fun p => ?_, P.zeroed _ h.2.1, P.reportStep s.report _ (.of_eq rfl rfl rfl) h.2.2⟩
  rw [eg_zeroCounters]
  exact P.queueStep _ _ (.of_eq fun c => by cases c <;> rfl) (h.1 p)

theorem start (c : StartCause) (s : State) : P.Holds (takeStart c s) := by
  obtain ⟨-, -, -, -, -, -, -, -, hpool, hegress, -, -, -, -, -, hreport, -⟩ := takeStart_started c s
  obtain ⟨hq, hp, hr⟩ := P.started
  refine ⟨fun p => ?_, hpool ▸ hp, hreport ▸ hr⟩
  rw [State.eg, hegress]
  cases p <;> exact hq

theorem kept : Kept P.Holds where
  report := fun _ _ hr h => ⟨h.1, h.2.1, P.reportStep _ _ hr h.2.2⟩
  pool := fun _ _ hq h => ⟨h.1, P.poolStep _ _ hq h.2.1, h.2.2⟩
  egress := fun _ _ _ he h => P.setEg h he.queueStep
  startRepeat := fun _ out h => P.startRepeat h out
  repeatDone := fun s out f _ _ _ h =>
    P.setEg (s := freeStore out.opposite f s) h (.of_eq fun c => by cases c <;> rfl)
  repeatTake := by intros; assumption
  giant := fun _ p h => P.dropReception h p
  endError := fun _ p _ _ h => P.dropReception h p
  endIntact := by intros; assumption
  repeatLoses := by intros; assumption
  repeatJoins := by intros; assumption
  fallen := fun _ p _ h => P.fallen h p
  zero := fun _ h => P.zero h
  start := fun s c _ => P.start c s
  enter := by intros; assumption
  begins := by intros; assumption
  retry := by intros; assumption
  decides := by intros; assumption
  transit := by intros; assumption
  fix := by intros; assumption

/-- Every step keeps laws of the parts. -/
theorem step {t : State} (hstep : step s = .next t) (h : P.Holds s) : P.Holds t := by
  obtain ⟨u, hu, hl⟩ := P.kept.step (fun _ _ h => h) (fun _ h => h) h
  rw [hstep] at hu
  cases hu
  exact hl

end PartLaws

/-! ### The four laws -/

/-- No class queue is longer than its depth (R92). -/
def queueDepths : PartLaws where
  queues e := ∀ c, (e.queue c).length ≤ c.depth
  pool _ := True
  report _ := True
  queueStep a b hs h c := by
    obtain hsub | ⟨hroom, x, hx⟩ := hs c
    · exact hsub.length_le.trans (h c)
    · rw [hx, List.length_append]
      exact hroom
  poolStep _ _ _ _ := trivial
  zeroed _ _ := trivial
  reportStep _ _ _ _ := trivial
  started := ⟨fun c => by cases c <;> exact Nat.zero_le _, trivial, trivial⟩

theorem queueDepths_holds (s : State) : queueDepths.Holds s ↔ s.QueueLaw := by
  simp [PartLaws.Holds, queueDepths, State.QueueLaw]

/-- The pool is in its canonical form, and the low-water mark at or below the free count: a take lowers both (R88). -/
def poolForm : PartLaws where
  queues _ := True
  pool q := q.wf = true ∧ q.low ≤ q.free
  report _ := True
  queueStep _ _ _ _ := trivial
  poolStep a b hs h := by
    cases hs with
    | take hf => exact ⟨Pool.take_wf h.1 hf, Nat.min_le_right ..⟩
    | release i => exact ⟨Pool.release_wf h.1, h.2.trans (Nat.sub_le_sub_left (Pool.release_length a i) 256)⟩
    | hold i => exact ⟨Pool.addHold_wf h.1, h.2.trans (by rw [Pool.addHold, Pool.free, Pool.free, Pool.modify_length])⟩
    | fill i bytes f =>
      exact ⟨Pool.modify_wf h.1 fun _ hb => hb, h.2.trans (by rw [Pool.free, Pool.free, Pool.modify_length])⟩
    | refused n => exact h
  zeroed _ h := ⟨h.1, le_rfl⟩
  reportStep _ _ _ _ := trivial
  started := ⟨trivial, ⟨rfl, le_rfl⟩, trivial⟩

theorem poolForm_holds (s : State) : poolForm.Holds s ↔ s.PoolLaw := by
  simp [PartLaws.Holds, poolForm, State.PoolLaw]

/-- The change list holds at most 16 items, none twice (R185). -/
def changeList : PartLaws where
  queues _ := True
  pool _ := True
  report r := r.changes.Nodup ∧ r.changes.length ≤ 16
  queueStep _ _ _ _ := trivial
  poolStep _ _ _ _ := trivial
  zeroed _ _ := trivial
  reportStep a b hs h := by
    obtain hc | hc | ⟨i, hi, hroom, hc⟩ := hs.changes <;> rw [hc]
    · exact h
    · exact ⟨List.nodup_nil, Nat.zero_le _⟩
    · refine ⟨List.nodup_append.mpr ⟨h.1, List.nodup_singleton i, ?_⟩, ?_⟩
      · rintro x hx y hy rfl
        exact hi (List.mem_singleton.mp hy ▸ hx)
      · rw [List.length_append]
        exact hroom
  started := ⟨trivial, trivial, List.nodup_nil, Nat.zero_le _⟩

theorem changeList_holds (s : State) : changeList.Holds s ↔ s.ChangeListLaw := by
  simp [PartLaws.Holds, changeList, State.ChangeListLaw]

/-- The command queue holds at most 2 commands, the notice list at most 4 notices (R181, R186). -/
def reportLists : PartLaws where
  queues _ := True
  pool _ := True
  report r := r.queue.length ≤ 2 ∧ r.notices.length ≤ 4
  queueStep _ _ _ _ := trivial
  poolStep _ _ _ _ := trivial
  zeroed _ _ := trivial
  reportStep _ _ hs h := ⟨hs.queue.elim (·.trans h.1) id, hs.notices.elim (·.trans h.2) id⟩
  started := ⟨trivial, trivial, Nat.zero_le _, Nat.zero_le _⟩

theorem reportLists_holds (s : State) : reportLists.Holds s ↔ s.ReportQueueLaw := by
  simp [PartLaws.Holds, reportLists, State.ReportQueueLaw]

end Sys2Proof.Machine

open Sys2Proof Sys2Proof.Machine

/-- Settles O31: each bound is a law of one part, kept by every update of it; a note acts as its three cases say. -/
theorem listsKeepTheirBounds : Obligations.ListsKeepTheirBounds := by
  refine ⟨fun s t hstep => ?_, fun i s => ?_⟩
  · rw [← queueDepths_holds, ← queueDepths_holds, ← poolForm_holds, ← poolForm_holds, ← changeList_holds,
      ← changeList_holds, ← reportLists_holds, ← reportLists_holds]
    exact ⟨queueDepths.step hstep, poolForm.step hstep, changeList.step hstep, reportLists.step hstep⟩
  · refine ⟨fun hi => if_pos (.inr hi), fun hn => if_pos (.inl hn), fun hn hi => ⟨fun hlt => ?_, fun hge => ?_⟩⟩
    · rw [note, if_neg (not_or.mpr ⟨hn, hi⟩), if_pos hlt]
    · rw [note, if_neg (not_or.mpr ⟨hn, hi⟩), if_neg (Nat.not_lt.mpr hge)]
end

section
/-! ## What a generator sends on the ring ports (R91, R93) -/

namespace Sys2Proof.Machine

/-! ### The buffer of a sent frame -/

/-- The pool once a composed frame is held by an entry for each port it is sent on, and by its composer no more. -/
def Pool.ringSent (q : Pool) (bytes : List Byte) (east west : Bool) : Pool :=
  let q1 := if east then (q.composed bytes).addHold q.take.1 else q.composed bytes
  (if west then q1.addHold q.take.1 else q1).release q.take.1

namespace Pool
variable {q : Pool} {i : Nat} {b : Buffer}

theorem get?_addHold_self (hb : q.get? i = some b) : (q.addHold i).get? i = some { b with refs := b.refs + 1 } := by
  rw [addHold, get?_modify, if_pos rfl, hb, Option.map_some]

theorem get?_addHold_of_ne {k : Nat} (hk : k ≠ i) : (q.addHold i).get? k = q.get? k := by
  rw [addHold, get?_modify, if_neg hk]

theorem free_addHold (q : Pool) (i : Nat) : (q.addHold i).free = q.free := by
  rw [addHold, free, free, modify_length]

/-- A hold that ends on a buffer with a further one leaves the buffer. -/
theorem release_shared (h : q.wf = true) (hb : q.get? i = some b) (hr : 1 < b.refs) :
    (q.release i).get? i = some { b with refs := b.refs - 1 } ∧ (q.release i).free = q.free := by
  have hlen := release_length_eq h hb
  rw [if_neg (by omega)] at hlen
  refine ⟨?_, by rw [free, free, ← hlen]; rfl⟩
  rw [get?_release h, if_pos rfl, hb, Option.bind_some, if_neg (by omega)]

theorem composed_free (bytes : List Byte) (h : q.wf = true) (hf : 1 ≤ q.free) : (q.composed bytes).free + 1 = q.free := by
  have hlen := composed_length bytes h
  unfold free at hf ⊢
  omega

theorem composed_get?_of_ne (bytes : List Byte) (h : q.wf = true) {k : Nat} (hk : k ≠ q.take.1) :
    (q.composed bytes).get? k = q.get? k := by
  rw [composed, get?_modify, if_neg hk, (get?_take h k).2, if_neg hk]

/-- A frame sent on some ring port takes one buffer, which each entry holds. -/
theorem ringSent_spec (bytes : List Byte) {east west : Bool} (hsends : east = true ∨ west = true)
    (h : q.wf = true) (hf : 1 ≤ q.free) :
    (q.ringSent bytes east west).get? q.take.1 = some ⟨if east = true ∧ west = true then 2 else 1, bytes, false⟩ ∧
      (q.ringSent bytes east west).free + 1 = q.free := by
  have hc := composed_get? bytes h
  have hcf := composed_free bytes h hf
  have hwf := composed_wf bytes h hf
  have hone := get?_addHold_self hc
  cases east <;> cases west
  · simp at hsends
  · exact composed_held bytes h hf
  · exact composed_held bytes h hf
  · have htwo := get?_addHold_self hone
    obtain ⟨hget, hfree⟩ := release_shared (addHold_wf (addHold_wf hwf)) htwo (Nat.lt_add_left 1 Nat.one_lt_two)
    refine ⟨hget, ?_⟩
    rw [← hcf, ← free_addHold (q.composed bytes) q.take.1, ← free_addHold ((q.composed bytes).addHold _) q.take.1]
    exact congrArg (· + 1) hfree

theorem ringSent_wf (bytes : List Byte) (east west : Bool) (h : q.wf = true) (hf : 1 ≤ q.free) :
    (q.ringSent bytes east west).wf = true := by
  have hwf := composed_wf bytes h hf
  refine release_wf ?_
  cases east <;> cases west
  · exact hwf
  · exact addHold_wf hwf
  · exact addHold_wf hwf
  · exact addHold_wf (addHold_wf hwf)

theorem ringSent_get?_of_ne (bytes : List Byte) (east west : Bool) (h : q.wf = true) (hf : 1 ≤ q.free) {k : Nat}
    (hk : k ≠ q.take.1) : (q.ringSent bytes east west).get? k = q.get? k := by
  have hwf := composed_wf bytes h hf
  have hc := composed_get?_of_ne bytes h hk
  cases east <;> cases west
  · exact (get?_release hwf _ k).trans ((if_neg hk).trans hc)
  · exact (get?_release (addHold_wf hwf) _ k).trans ((if_neg hk).trans ((get?_addHold_of_ne hk).trans hc))
  · exact (get?_release (addHold_wf hwf) _ k).trans ((if_neg hk).trans ((get?_addHold_of_ne hk).trans hc))
  · exact (get?_release (addHold_wf (addHold_wf hwf)) _ k).trans ((if_neg hk).trans
      ((get?_addHold_of_ne hk).trans ((get?_addHold_of_ne hk).trans hc)))

@[simp] theorem ringSent_refused (q : Pool) (bytes : List Byte) (east west : Bool) :
    (q.ringSent bytes east west).refused = q.refused := by
  cases east <;> cases west <;> rfl

end Pool

/-! ### The entries of a sent frame -/

/-- The URGENT queue of each ring port that is not DOWN has room for `n` entries more. -/
def State.UrgentRoom (s : State) (n : Nat) : Prop :=
  ∀ p : RingPort, s.isDown p.port = false → (s.eg p.port).urgent.length + n ≤ 32

theorem State.urgentRoom_one {s : State} (he : s.isDown .east = false → (s.eg .east).urgent.length < 32)
    (hw : s.isDown .west = false → (s.eg .west).urgent.length < 32) : s.UrgentRoom 1
  | .east => he
  | .west => hw

/-- A scheduler that an URGENT entry joins, where its port is not DOWN. -/
def Egress.joinUrgent (down : Bool) (x : Entry) (e : Egress) : Egress :=
  if down then e else { e with urgent := e.urgent ++ [x] }

/-- The state in which a generator's frame waits on each ring port that is not DOWN. -/
def ringSent (bytes : List Byte) (m : Mark) (s : State) : State :=
  let x : Entry := ⟨s.pool.take.1, m, s.clock.timerUnits⟩
  { s with
    egress := { s.egress with
      east := (s.eg .east).joinUrgent (s.isDown .east) x
      west := (s.eg .west).joinUrgent (s.isDown .west) x }
    pool := s.pool.ringSent bytes (!s.isDown .east) (!s.isDown .west) }

/-- A generator's frame composed in a buffer of its own and queued on each ring port that is not DOWN. -/
def ringQueued (bytes : List Byte) (m : Mark) (s : State) : State :=
  enqueueRing (!s.isDown .east) (!s.isDown .west) .urgent s.pool.take.1 m
    (fillBuffer s.pool.take.1 bytes false { s with pool := s.pool.take.2 })

theorem ringQueued_of_room (bytes : List Byte) (m : Mark) {s : State} (hroom : s.UrgentRoom 1) :
    ringQueued bytes m s = ringSent bytes m s := by
  have heast := hroom .east
  have hwest := hroom .west
  let t := fillBuffer s.pool.take.1 bytes false { s with pool := s.pool.take.2 }
  simp only [RingPort.port] at heast hwest
  unfold ringQueued enqueueRing ringSent Egress.joinUrgent
  cases hde : s.isDown .east <;> cases hdw : s.isDown .west
  · have h1 := enqueue_joins (c := .urgent) (s := t) s.pool.take.1 m hde (heast hde)
    have h2 := enqueue_joins (p := .west) (c := .urgent) (s := enqueue .east .urgent s.pool.take.1 m t)
      s.pool.take.1 m (by rw [h1]; exact hdw) (by rw [h1]; exact hwest hdw)
    exact congrArg (release s.pool.take.1) (h2.trans (by rw [h1]))
  · exact congrArg (release s.pool.take.1) (enqueue_joins (c := .urgent) (s := t) s.pool.take.1 m hde (heast hde))
  · exact congrArg (release s.pool.take.1) (enqueue_joins (c := .urgent) (s := t) s.pool.take.1 m hdw (hwest hdw))
  · rfl

/-- The buffer of a sent frame is held once for each port that it waits on. -/
theorem ringSent_buffer (bytes : List Byte) (m : Mark) {s : State} (hup : s.isDown .east = false ∨ s.isDown .west = false)
    (h : s.pool.wf = true) (hf : 1 ≤ s.free) : (ringSent bytes m s).buffer s.pool.take.1 =
      ⟨if s.isDown .east = true ∨ s.isDown .west = true then 1 else 2, bytes, false⟩ := by
  obtain ⟨hget, -⟩ := Pool.ringSent_spec bytes (east := !s.isDown .east) (west := !s.isDown .west)
    (by simpa using hup) h hf
  unfold State.buffer ringSent
  dsimp only
  rw [hget]
  cases s.isDown .east <;> cases s.isDown .west <;> rfl

theorem generatorTake_urgent {s : State} (hf : 1 ≤ s.free) :
    generatorTake .urgent s = (some s.pool.take.1, { s with pool := s.pool.take.2 }) := if_pos hf

theorem generatorTake_urgent_refused {s : State} (hf : s.free = 0) : generatorTake .urgent s =
    (none, { s with pool := { s.pool with refused := raise s.pool.refused } }) := if_neg (by omega)

/-! ## TIME frames (R141) -/

section Time
variable {s : State}

theorem sendTime_of_down (he : s.isDown .east = true) (hw : s.isDown .west = true) : sendTime s = s := by
  simp [sendTime, he, hw]

theorem sendTime_refused (hup : s.isDown .east = false ∨ s.isDown .west = false) (hf : s.free = 0) :
    sendTime s = { s with pool := { s.pool with refused := raise s.pool.refused } } := by
  have hring : (!s.isDown .east || !s.isDown .west) = true := by simpa using hup
  unfold sendTime
  dsimp only
  rw [if_pos hring, generatorTake_urgent_refused hf]

/-- A composed TIME frame takes the next number and is queued and counted. -/
theorem sendTime_composed (hup : s.isDown .east = false ∨ s.isDown .west = false) (hf : 1 ≤ s.free) :
    sendTime s = { ringQueued (pad60 (timeContent s)) (internalMark .time s.tagger.seq s)
        { s with tagger := { s.tagger with seq := s.tagger.seq + 1 } } with
      time := { s.time with sent := raise s.time.sent } } := by
  have hring : (!s.isDown .east || !s.isDown .west) = true := by simpa using hup
  let q := ringQueued (pad60 (timeContent s)) (internalMark .time s.tagger.seq s)
    { s with tagger := { s.tagger with seq := s.tagger.seq + 1 } }
  have htime : q.time = s.time := (SameBut.enqueueRing ..).time
  unfold sendTime
  dsimp only
  rw [if_pos hring, generatorTake_urgent hf]
  exact congrArg (fun u : TimeBase => ({ q with time := { u with sent := raise u.sent } } : State)) htime

theorem sendTime_sent (hup : s.isDown .east = false ∨ s.isDown .west = false) (hf : 1 ≤ s.free)
    (hroom : s.UrgentRoom 1) : sendTime s =
      { ringSent (pad60 (timeContent s)) (internalMark .time s.tagger.seq s) s with
        tagger := { s.tagger with seq := s.tagger.seq + 1 }
        time := { s.time with sent := raise s.time.sent } } := by
  rw [sendTime_composed hup hf, ringQueued_of_room _ _ (by exact hroom)]
  rfl

end Time

theorem exec_timePeriodExpiry {s : State} (h : s.clock.due s.time.period = true) : exec .timePeriodExpiry s =
    .next (settle (sendTime { s with time := { s.time with period := rearmed s.time.period s.timePeriod } })) := by
  simp only [exec, execTimePeriodExpiry, finish, if_pos h]

theorem exec_timePeriodExpiry_of_not {s : State} (h : s.clock.due s.time.period = false) :
    exec .timePeriodExpiry s = .next (settle s) := by
  simp [exec, execTimePeriodExpiry, finish, h]

end Sys2Proof.Machine

open Sys2Proof Sys2Proof.Machine

/-- Settles O46, by the three ends of a TIME frame's generation: no port to send on, a refused buffer, the frame sent. -/
theorem theTimeSourceSendsTimeFrames : Obligations.TheTimeSourceSendsTimeFrames := by
  intro s
  refine ⟨exec_timePeriodExpiry_of_not, ?_⟩
  intro hdue period content
  let v : State := { s with time := { s.time with period := period } }
  have hexec : exec .timePeriodExpiry s = .next (settle (sendTime v)) := exec_timePeriodExpiry hdue
  refine ⟨fun he hw => ?_, fun hup hf => ?_, ?_⟩
  · rw [hexec, sendTime_of_down (s := v) he hw]
  · rw [hexec, sendTime_refused (s := v) hup hf]
  · intro hup hf hwf he hw x
    refine ⟨sendTime v, hexec, ?_⟩
    rw [sendTime_sent (s := v) hup hf (State.urgentRoom_one he hw)]
    have hbuffer := ringSent_buffer (pad60 (timeContent v)) (internalMark .time s.tagger.seq v) (s := v) hup hwf hf
    simp only [← Bool.or_eq_true] at hbuffer
    exact ⟨rfl, rfl, rfl, rfl, hbuffer, rfl, rfl, rfl, rfl, rfl, rfl⟩
end

section
/-! ## The start of a round (R151, R152, R186) -/

namespace Sys2Proof.Machine

/-! ### Sending leaves the report unit alone -/

section WithReport
variable {m : Mark} {s : State}

/-- The report unit, where no RESTART reply is queued, takes no part in a request to enqueue. -/
theorem enqueue_withReport (hm : m ≠ .localFrame true) (p : Port) (c : Class) (b : Nat) (r : ReportUnit) (s : State) :
    enqueue p c b m { s with report := r } = { enqueue p c b m s with report := r } := by
  have hended (t : State) : entryEnded m t = t := if_neg hm
  obtain ⟨hd, h⟩ | ⟨hd, hl, h⟩ | ⟨hd, hl, h⟩ := enqueue_cases p c b m s <;> rw [h]
  · rw [hended]
    exact (if_pos hd).trans (hended _)
  · rw [hended]
    exact (if_neg (ne_true_of_eq_false hd)).trans ((if_pos hl).trans (hended _))
  · exact (if_neg (ne_true_of_eq_false hd)).trans (if_neg (Nat.not_le.mpr hl))

theorem enqueueRing_withReport (hm : m ≠ .localFrame true) (e w : Bool) (c : Class) (b : Nat) (r : ReportUnit)
    (s : State) : enqueueRing e w c b m { s with report := r } = { enqueueRing e w c b m s with report := r } := by
  have heast := enqueue_withReport hm .east c b r s
  cases e <;> cases w
  · rfl
  · exact congrArg (release b) (enqueue_withReport hm .west c b r s)
  · exact congrArg (release b) heast
  · exact congrArg (release b) ((congrArg (enqueue .west c b m) heast).trans (enqueue_withReport hm ..))

theorem enqueueRing_report (hm : m ≠ .localFrame true) (e w : Bool) (c : Class) (b : Nat) (s : State) :
    (enqueueRing e w c b m s).report = s.report := by
  have h := congrArg State.report (enqueueRing_withReport hm e w c b s.report s)
  exact h

/-- A frame that is composed and queued on the ring ports concerns the pool and their schedulers alone. -/
theorem ringQueued_spec (hm : m ≠ .localFrame true) (bytes : List Byte) (s : State) :
    SameBut s (ringQueued bytes m s) ∧ (ringQueued bytes m s).roll = s.roll ∧
      (ringQueued bytes m s).report = s.report ∧
      ∀ p, p = .tap ∨ s.isDown p = true → (ringQueued bytes m s).eg p = s.eg p := by
  have hfill : SameBut s (fillBuffer s.pool.take.1 bytes false { s with pool := s.pool.take.2 }) :=
    .parts s s.report _ s.egress s.roll
  refine ⟨hfill.trans (.enqueueRing ..), enqueueRing_roll .., enqueueRing_report hm .., fun p hp => ?_⟩
  refine (enqueueRing_eg (q := p) ?_ ?_ ..).trans rfl <;> rintro rfl <;> simpa using hp

theorem generatorTake_withReport (c : Class) (r : ReportUnit) (s : State) : generatorTake c { s with report := r } =
    ((generatorTake c s).1, { (generatorTake c s).2 with report := r }) := by
  obtain ⟨hf, h⟩ | ⟨hf, h⟩ := generatorTake_cases c s <;> rw [h]
  · exact if_pos hf
  · exact if_neg (Nat.not_le.mpr hf)

theorem sendRoll_withReport (r : ReportUnit) (s : State) :
    sendRoll { s with report := r } = ((sendRoll s).1, { (sendRoll s).2 with report := r }) := by
  unfold sendRoll
  rw [generatorTake_withReport]
  cases generatorTake .urgent s with
  | mk o u =>
    cases o with
    | none => rfl
    | some b =>
      exact congrArg (Prod.mk false)
        (enqueueRing_withReport Mark.noConfusion _ _ _ b r (fillBuffer b (pad60 (rollContent u)) false u))

theorem sendRoll_report (s : State) : (sendRoll s).2.report = s.report := by
  have h := congrArg (fun x => x.2.report) (sendRoll_withReport s.report s)
  exact h

end WithReport

/-! ### The roll of a round that starts -/

section Roll
variable {s : State}

theorem sendRoll_refused (hf : s.free = 0) :
    sendRoll s = (true, { s with pool := { s.pool with refused := raise s.pool.refused } }) := by
  unfold sendRoll
  rw [generatorTake_urgent_refused hf]

theorem sendRoll_fst (hf : 1 ≤ s.free) : (sendRoll s).1 = false := by
  unfold sendRoll
  rw [generatorTake_urgent hf]

theorem sendRoll_sent (hf : 1 ≤ s.free) (hroom : s.UrgentRoom 1) : sendRoll s =
    (false, ringSent (pad60 (rollContent s)) (internalMark .roll (s.roll.number.setWidth 16) s) s) := by
  unfold sendRoll
  rw [generatorTake_urgent hf]
  exact congrArg (Prod.mk false) (ringQueued_of_room _ _ hroom)

theorem sendRoll_tap (s : State) : (sendRoll s).2.eg .tap = s.eg .tap := by
  unfold sendRoll
  obtain ⟨-, h⟩ | ⟨-, h⟩ := generatorTake_cases .urgent s <;> rw [h]
  · exact (enqueueRing_eg (q := .tap) nofun nofun ..).trans rfl
  · rfl

theorem up_of_not_down (h : ¬ (s.isDown .east = true ∧ s.isDown .west = true)) :
    s.isDown .east = false ∨ s.isDown .west = false := by
  rwa [← Bool.not_eq_true, ← Bool.not_eq_true, ← not_and_or]

/-- A started round's roll: sent where some ring port is not DOWN (R152). -/
def openedRoll (cause : RollCause) (s : State) : Bool × State :=
  if s.isDown .east && s.isDown .west then (false, openRound cause s) else sendRoll (openRound cause s)

theorem beginRound_eq (cause : RollCause) (s : State) : beginRound cause s =
    note .roll (addNotice (.begins (s.roll.number + 1) cause (laneSend (s.isDown .east) (openedRoll cause s).1)
      (laneSend (s.isDown .west) (openedRoll cause s).1)) (openedRoll cause s).2) := rfl

theorem openedRoll_report (cause : RollCause) (s : State) : (openedRoll cause s).2.report = s.report := by
  unfold openedRoll
  split
  · rfl
  · exact sendRoll_report _

theorem openedRoll_tap (cause : RollCause) (s : State) : (openedRoll cause s).2.eg .tap = s.eg .tap := by
  unfold openedRoll
  split
  · rfl
  · exact sendRoll_tap _

theorem openedRoll_of_down (cause : RollCause) (h : s.isDown .east = true ∧ s.isDown .west = true) :
    openedRoll cause s = (false, openRound cause s) := by
  rw [openedRoll, if_pos (by simpa using h)]

theorem openedRoll_of_up (cause : RollCause) (h : ¬ (s.isDown .east = true ∧ s.isDown .west = true)) :
    openedRoll cause s = sendRoll (openRound cause s) := by
  rw [openedRoll, if_neg (by simpa using h)]

/-- A lane's send is told by its port and, where a roll is sent, by the pool (R152). -/
theorem laneSend_openedRoll (cause : RollCause) {p : Port} (hp : p = .east ∨ p = .west) :
    laneSend (s.isDown p) (openedRoll cause s).1 =
      if s.isDown p = true then .ownPortDown else if s.free = 0 then .refused else .sent := by
  by_cases hd : s.isDown p = true
  · rw [laneSend, if_pos hd, if_pos hd]
  · have hup : ¬ (s.isDown .east = true ∧ s.isDown .west = true) := by
      rintro ⟨he, hw⟩
      obtain rfl | rfl := hp
      · exact hd he
      · exact hd hw
    rw [openedRoll_of_up cause hup, laneSend, if_neg hd, if_neg hd]
    by_cases hf : s.free = 0
    · rw [sendRoll_refused (s := openRound cause s) hf, if_pos hf, if_pos rfl]
    · rw [sendRoll_fst (s := openRound cause s) (Nat.one_le_iff_ne_zero.mpr hf), if_neg hf]
      rfl

end Roll

/-! ### The notice and the note -/

theorem note_notices (i : Item) (s : State) : (note i s).report.notices = s.report.notices ∧
    (note i s).report.counters = s.report.counters := by
  obtain h | ⟨-, -, h⟩ | ⟨-, -, h⟩ := note_cases i s <;> rw [h] <;> exact ⟨rfl, rfl⟩

/-- A noted item is on the list, or MORE tells that it was dropped (R185). -/
theorem mem_note {s : State} (i : Item) (hn : s.loader.nodeState ≠ .reset) :
    i ∈ (note i s).report.changes ∨ (note i s).report.more = true := by
  unfold note
  split
  · exact .inl (by tauto)
  · split
    · exact .inl (List.mem_append_right _ (List.mem_singleton_self i))
    · exact .inr rfl

theorem note_pool (i : Item) (s : State) : (note i s).pool = s.pool := by rw [note_eq]

theorem addNotice_pool (n : Notice) (s : State) : (addNotice n s).pool = s.pool := by
  unfold addNotice
  split <;> rfl

/-- The start of a round leaves queues and pool as its roll leaves them. -/
theorem beginRound_sends (cause : RollCause) (s : State) :
    (beginRound cause s).egress = (openedRoll cause s).2.egress ∧
      (beginRound cause s).pool = (openedRoll cause s).2.pool := by
  rw [beginRound_eq]
  exact ⟨(note_egress ..).trans (addNotice_egress ..), (note_pool ..).trans (addNotice_pool ..)⟩

end Sys2Proof.Machine

open Sys2Proof Sys2Proof.Machine

/-- Settles O48: the roll is opened and sent, then the notice is queued and the item noted, which touch the report
unit alone. -/
theorem aRoundBeginsWithItsRoll : Obligations.ARoundBeginsWithItsRoll := by
  intro cause s hwf t n down refused lane told content
  obtain ⟨hegress, hpool⟩ := beginRound_sends cause s
  have hsame : SameBut s t := .beginRound cause s
  have hreport := openedRoll_report cause s
  have hbegins : t = note .roll (addNotice (.begins n cause (told .east) (told .west)) (openedRoll cause s).2) := by
    have hbegin := beginRound_eq cause s
    rwa [laneSend_openedRoll cause (.inl rfl), laneSend_openedRoll cause (.inr rfl)] at hbegin
  obtain ⟨hnotices, hcounters⟩ := note_notices .roll
    (addNotice (.begins n cause (told .east) (told .west)) (openedRoll cause s).2)
  rw [← hbegins] at hnotices hcounters
  refine ⟨?_, fun hroom => ?_, fun hfull => ?_, fun hn => ?_, fun hdown => ?_, fun hup hf => ?_, ?_, ?_, hsame.ports,
    hsame.tagger, hsame.sources, hsame.slots, hsame.check, hsame.time, hsame.clock⟩
  · rw [beginRound_roll]
    unfold openRound startLane lane down
    cases s.isDown .east <;> cases s.isDown .west <;> rfl
  · rw [addNotice, if_pos (by rw [hreport]; exact hroom)] at hnotices hcounters
    exact ⟨hreport ▸ hnotices, hreport ▸ hcounters⟩
  · rw [addNotice, if_neg (by rw [hreport]; exact Nat.not_lt.mpr hfull)] at hnotices hcounters
    exact ⟨hreport ▸ hnotices, hreport ▸ hcounters⟩
  · rw [hbegins]
    refine mem_note .roll (fun h => hn ?_)
    rw [← hsame.loader, hbegins, note_loader]
    exact h
  · rw [hegress, hpool, openedRoll_of_down cause hdown]
    exact ⟨rfl, rfl⟩
  · rw [hegress, hpool, openedRoll_of_up cause hup, sendRoll_refused (s := openRound cause s) hf]
    exact ⟨rfl, rfl⟩
  · intro hup hf he hw x
    have hfree : 1 ≤ s.free := Nat.one_le_iff_ne_zero.mpr hf
    have hsent := sendRoll_sent (s := openRound cause s) hfree (State.urgentRoom_one he hw)
    unfold State.eg State.buffer
    rw [hegress, hpool, openedRoll_of_up cause hup, hsent]
    refine ⟨rfl, rfl, ?_⟩
    exact ringSent_buffer (pad60 content) (internalMark .roll (n.setWidth 16) s) (s := openRound cause s)
      (up_of_not_down hup) hwf hfree
  · exact (congrArg (·.get .tap) hegress).trans (openedRoll_tap cause s)
end

section
/-! ## Starts of cause COMMAND (R97, R102, R167, R182) -/

namespace Sys2Proof.Machine

/-- A start of cause COMMAND is due once the event has done its work (log 28). -/
theorem settle_restart {s : State} (h : s.report.restartDue = true) : settle s = takeStart .command s := if_pos h

/-- A start of cause COMMAND keeps the pins and the queue of commands, and enters LOADING with the straps read
(R180, log 5). -/
theorem takeStart_command {s u : State} {pins : Pins} (hpins : u.pins = pins) (hpending : u.pending = s.pending)
    (hstraps : pins.straps = s.pins.straps) :
    let t := takeStart .command u
    t.Started ∧ t.pins = pins ∧ t.pending = s.pending ∧ t.loader.nodeState = .loading ∧ t.loader.cause = .command ∧
      t.loader.strap = s.pins.straps :=
  ⟨takeStart_started .command u, hpins, hpending, rfl, rfl, (congrArg Pins.straps hpins).trans hstraps⟩

/-- The fall of the tap port concerns no lane. -/
theorem portFalls_tap (s : State) : portFalls .tap s = note (.port .tap) (fallen .tap s) := by
  have hcheck : (note (.port .tap) (fallen .tap s)).check = s.check :=
    (SameBut.note (.port .tap) (fallen .tap s)).check.trans (by rw [fallen_eq]; rfl)
  rw [portFalls, tellLanes, hcheck]
  simp [noteIf]

theorem note_restartDue (i : Item) (s : State) : (note i s).report.restartDue = s.report.restartDue := by
  obtain h | ⟨-, -, h⟩ | ⟨-, -, h⟩ := note_cases i s <;> rw [h]

/-- The tap port's fall ends the entries it held, a RESTART reply's too (R102, R167). -/
theorem portFalls_tap_restartDue {s : State} {e : Entry} (he : e ∈ (s.eg .tap).held)
    (hm : e.mark = .localFrame true) : (portFalls .tap s).report.restartDue = true := by
  have hany : ((s.eg .tap).held.any fun e => e.mark == .localFrame true) = true :=
    List.any_eq_true.mpr ⟨e, he, by rw [hm, beq_self_eq_true]⟩
  rw [portFalls_tap, note_restartDue, fallen_eq]
  exact Bool.or_eq_true_iff.mpr (.inr hany)

end Sys2Proof.Machine

open Sys2Proof Sys2Proof.Machine

/-- Settles O6: in each of the three ways the event ends with a start due, and it keeps pins and commands. -/
theorem endOfRestartReplyStartsTheNode : Obligations.EndOfRestartReplyStartsTheNode := by
  refine ⟨fun buf doneAt bytes s ht hd => ?_, fun s hd hheld => ?_, fun k rest s hq hc hr hk hf hj => ?_⟩
  · refine ⟨_, (exec_transmissionComplete ht hd).trans (congrArg _ (settle_restart ?_)), takeStart_command ?_ ?_ rfl⟩
      <;> rw [entryEnded_eq]
    · exact Bool.or_true _
    · rfl
    · rfl
  · have hdue : (portFalls .tap (setLink .tap false s)).report.restartDue = true := by
      obtain ⟨x, hx, hm⟩ | ⟨buf, bytes, doneAt, ht⟩ := hheld
      · exact portFalls_tap_restartDue (List.mem_append_right _ hx) hm
      · refine portFalls_tap_restartDue (e := ⟨buf, .localFrame true, 0⟩) ?_ rfl
        have hmem : (⟨buf, .localFrame true, 0⟩ : Entry) ∈ (s.eg .tap).held := by
          simp [Egress.held, ht, Transmitter.held]
        exact hmem
    refine ⟨_, ?_, takeStart_command (u := portFalls .tap (setLink .tap false s)) ?_ ?_ rfl⟩
    · rw [exec_linkFall hd, settle_restart hdue]
    · rw [portFalls_tap, note_eq, fallen_eq]
      rfl
    · rw [portFalls_tap, note_eq, fallen_eq]
      rfl
  · have hfull : ¬ (s.isDown .tap = false ∧ (s.eg .tap).bulk.length < 96) := by
      rintro ⟨hup, hl⟩
      obtain hd | hb := hj
      · exact absurd (hup.symm.trans hd) nofun
      · exact absurd hl (Nat.not_lt.mpr hb)
    let u : State := { s with report := { s.report with queue := { k with result := some .done } :: rest } }
    have hexec : exec .restart s = .next (settle (composeReply u)) := by
      rw [exec_restart, carryOut_eq hq hr (by rw [hc]; rfl) rfl]
      rfl
    have hsame : SameBut u (composeReply u) := .composeReply u
    have hdue : (composeReply u).report.restartDue = true := by
      obtain ⟨counters, hreply⟩ := composeReply_dropped (s := u) rfl rfl hk hf hfull
      rw [hreply]
      exact Bool.or_eq_true_iff.mpr (.inr (beq_iff_eq.mpr hc))
    exact ⟨_, hexec.trans (congrArg _ (settle_restart hdue)), takeStart_command hsame.pins hsame.pending rfl⟩
end

section
/-! ## Check periods (R130, R131, R135, R137) -/

namespace Sys2Proof.Machine

/-! ### The judgement of a lane (R135) -/

/-- A lane with a return keeps its state, and one without counts a miss and breaks at the limit. -/
theorem CheckLane.judge_spec (c : Nat) (l : CheckLane) :
    (l.judge c).returned = false ∧ (l.judge c).latency = l.latency ∧ (l.judge c).returns = l.returns ∧
      (l.judge c).lateCheck = l.lateCheck ∧ (l.judge c).sent = l.sent ∧
      (l.returned = true → (l.judge c).state = l.state ∧ (l.judge c).miss = l.miss ∧ (l.judge c).breaks = l.breaks) ∧
      (l.returned = false → (l.judge c).miss = min c (l.miss + 1) ∧
        (c ≤ l.miss + 1 → (l.judge c).state = .broken ∧
          (l.judge c).breaks = if l.state = .broken then l.breaks else raise l.breaks) ∧
        (l.miss + 1 < c → (l.judge c).state = l.state ∧ (l.judge c).breaks = l.breaks)) := by
  unfold CheckLane.judge
  cases hr : l.returned
  · by_cases hc : c ≤ l.miss + 1
    · rw [min_eq_left hc]
      by_cases hb : l.state = .broken <;> simp [hb, hc]
    · have hmin : min c (l.miss + 1) ≠ c := by omega
      simp [hmin, hc]
  · simp

/-- A CHECK frame that a lane receives changes the lane's count alone. -/
theorem CheckLane.countSent_spec (made : Bool) (l : CheckLane) :
    l.countSent made = { l with sent := if made then raise l.sent else l.sent } := by
  cases made <;> rfl

/-! ### The CHECK frame of a period (R131) -/

section Check
variable {s : State}

/-- A CHECK frame composed now is sent on a port. -/
def State.checkSent (s : State) (p : Port) : Bool := !s.isDown p && decide (1 ≤ s.free)

/-- The lanes once the CHECK frame of the period is composed. -/
def State.sentLanes (s : State) : PerLane CheckLane :=
  ⟨s.check.lanes.e.countSent (s.checkSent .east), s.check.lanes.w.countSent (s.checkSent .west)⟩

theorem sendCheck_of_down (hd : s.isDown .east = true ∧ s.isDown .west = true) : sendCheck s = s := by
  simp [sendCheck, hd]

theorem sendCheck_refused (hup : ¬ (s.isDown .east = true ∧ s.isDown .west = true)) (hf : s.free = 0) :
    sendCheck s = { s with pool := { s.pool with refused := raise s.pool.refused } } := by
  have hring : (!s.isDown .east || !s.isDown .west) = true := by simpa using up_of_not_down hup
  unfold sendCheck
  dsimp only
  rw [if_pos hring, generatorTake_urgent_refused hf]

/-- A composed CHECK frame is queued, and each lane that it is sent on counts it. -/
theorem sendCheck_composed (hup : ¬ (s.isDown .east = true ∧ s.isDown .west = true)) (hf : 1 ≤ s.free) :
    sendCheck s = { ringQueued (pad60 (checkContent s)) (internalMark .check s.check.number s) s with
      check := { s.check with lanes := s.sentLanes } } := by
  have hring : (!s.isDown .east || !s.isDown .west) = true := by simpa using up_of_not_down hup
  let q := ringQueued (pad60 (checkContent s)) (internalMark .check s.check.number s) s
  have hcheck : q.check = s.check := (SameBut.enqueueRing ..).check
  have hlanes : s.sentLanes = ⟨s.check.lanes.e.countSent (!s.isDown .east),
      s.check.lanes.w.countSent (!s.isDown .west)⟩ := by
    simp only [State.sentLanes, State.checkSent, decide_eq_true hf, Bool.and_true]
  unfold sendCheck
  dsimp only
  rw [if_pos hring, generatorTake_urgent hf, hlanes]
  exact congrArg (fun c : RingCheck => ({ q with check := { c with lanes :=
    ⟨c.lanes.e.countSent (!s.isDown .east), c.lanes.w.countSent (!s.isDown .west)⟩ } } : State)) hcheck

theorem sendCheck_sent (hup : ¬ (s.isDown .east = true ∧ s.isDown .west = true)) (hf : 1 ≤ s.free)
    (hroom : s.UrgentRoom 1) : sendCheck s =
      { ringSent (pad60 (checkContent s)) (internalMark .check s.check.number s) s with
        check := { s.check with lanes := s.sentLanes } } := by
  rw [sendCheck_composed hup hf, ringQueued_of_room _ _ hroom]

/-- A CHECK frame sent, with its entries, its buffer and its counts. -/
theorem sendCheck_queued (hup : ¬ (s.isDown .east = true ∧ s.isDown .west = true)) (hf : 1 ≤ s.free)
    (hwf : s.pool.wf = true) (hroom : s.UrgentRoom 1) :
    let x : Entry := ⟨s.pool.take.1, internalMark .check s.check.number s, s.clock.timerUnits⟩
    (sendCheck s).eg .east = (s.eg .east).joinUrgent (s.isDown .east) x ∧
      (sendCheck s).eg .west = (s.eg .west).joinUrgent (s.isDown .west) x ∧
      (sendCheck s).buffer s.pool.take.1 =
        ⟨if s.isDown .east = true ∨ s.isDown .west = true then 1 else 2, pad60 (checkContent s), false⟩ := by
  rw [sendCheck_sent hup hf hroom]
  exact ⟨rfl, rfl, ringSent_buffer _ (internalMark .check s.check.number s) (up_of_not_down hup) hwf hf⟩

theorem countSent_checkSent {p : Port} (hf : 1 ≤ s.free) (l : CheckLane) :
    (l.countSent (s.checkSent p)).sent = if s.isDown p = true then l.sent else raise l.sent := by
  rw [CheckLane.countSent_spec, State.checkSent, decide_eq_true hf]
  cases s.isDown p <;> rfl

theorem sentLanes_of_not (h : (s.isDown .east = true ∧ s.isDown .west = true) ∨ s.free = 0) :
    s.sentLanes = s.check.lanes := by
  have hnot (p : Port) (hp : p = .east ∨ p = .west) : s.checkSent p = false := by
    obtain ⟨he, hw⟩ | hf := h
    · obtain rfl | rfl := hp
      · simp [State.checkSent, he]
      · simp [State.checkSent, hw]
    · simp [State.checkSent, hf]
  rw [State.sentLanes, hnot .east (.inl rfl), hnot .west (.inr rfl)]
  rfl

theorem SameBut.withCheck {s t : State} (h : SameBut s t) (c : RingCheck) :
    SameBut { s with check := c } { t with check := c } := { h with check := rfl }

/-- What a CHECK frame leaves: lanes count it, and the report unit, the tap port and the rest take no part. -/
theorem sendCheck_spec (s : State) : SameBut { s with check := { s.check with lanes := s.sentLanes } } (sendCheck s) ∧
    (sendCheck s).roll = s.roll ∧ (sendCheck s).report = s.report ∧
    ∀ p, p = .tap ∨ s.isDown p = true → (sendCheck s).eg p = s.eg p := by
  by_cases hd : s.isDown .east = true ∧ s.isDown .west = true
  · rw [sendCheck_of_down hd, sentLanes_of_not (.inl hd)]
    exact ⟨.refl s, rfl, rfl, fun _ _ => rfl⟩
  · by_cases hf : s.free = 0
    · rw [sendCheck_refused hd hf, sentLanes_of_not (.inr hf)]
      exact ⟨.parts s s.report _ s.egress s.roll, rfl, rfl, fun _ _ => rfl⟩
    · rw [sendCheck_composed hd (Nat.one_le_iff_ne_zero.mpr hf)]
      obtain ⟨hsame, hroll, hreport, heg⟩ := ringQueued_spec (m := internalMark .check s.check.number s) nofun
        (pad60 (checkContent s)) s
      exact ⟨hsame.withCheck _, hroll, hreport, heg⟩

end Check

/-! ### The report unit's part in a period's end (R137, R185) -/

section Notes
variable {s : State}

theorem note_report (i : Item) (s : State) : (note i s).report =
    { s.report with changes := (note i s).report.changes, more := (note i s).report.more } := by
  obtain h | ⟨-, -, h⟩ | ⟨-, -, h⟩ := note_cases i s <;> rw [h]

/-- Notes change the change list and MORE alone. -/
theorem foldl_note_eq (l : List Item) (s : State) :
    let t := l.foldl (fun u i => note i u) s
    t = { s with report := t.report } ∧
      t.report = { s.report with changes := t.report.changes, more := t.report.more } := by
  induction l generalizing s with
  | nil => exact ⟨rfl, rfl⟩
  | cons i l ih =>
    obtain ⟨hstate, hreport⟩ := ih (note i s)
    rw [note_report] at hreport
    have hnote := congrArg (fun v : State =>
      { v with report := (l.foldl (fun u i => note i u) (note i s)).report }) (note_eq i s)
    exact ⟨hstate.trans hnote, hreport⟩

/-- Where the ring state changes and a trigger follows, the notes are made first, and then a report that waits is
composed (R137, R150, log 36). -/
theorem tellLanes_eq_trigger (old : RingCheck) (hr : s.check.ring ≠ old.ring) (ha : s.cfg.autoRoll = true) :
    tellLanes old s = autoTrigger (reportService ((old.changedItems s.check).foldl (fun u i => note i u) s)) := by
  unfold tellLanes ringChanged noteIf RingCheck.changedItems
  by_cases he : s.check.lanes.e.state = old.lanes.e.state <;>
    by_cases hw : s.check.lanes.w.state = old.lanes.w.state <;>
    simp_all [State.cfg, note_loader]

theorem composeLocal_roll (c : State → List Byte) (r : Bool) {done : State → State}
    (hd : ∀ t, (done t).roll = t.roll) (s : State) : (composeLocal c r done s).roll = s.roll := by
  unfold composeLocal
  obtain ⟨-, h⟩ | ⟨-, h⟩ := generatorTake_cases .bulk s <;> rw [h]
  · exact (hd _).trans (enqueue_roll ..)
  · rfl

theorem reportService_roll (s : State) : (reportService s).roll = s.roll := by
  unfold reportService composeWaiting
  split
  · split
    · exact composeLocal_roll _ _ (done := fun t => reportMade (noticeReported t)) (fun _ => rfl) s
    · split
      · exact composeLocal_roll _ _ (done := fun t => reportMade (listReported t)) (fun _ => rfl) s
      · rfl
  · rfl

end Notes

/-! ### The trigger of a round (R150) -/

section Trigger
variable {s : State}

theorem openedRoll_withReport (cause : RollCause) (r : ReportUnit) (s : State) :
    openedRoll cause { s with report := r } = ((openedRoll cause s).1, { (openedRoll cause s).2 with report := r }) := by
  have hsend := sendRoll_withReport r (openRound cause s)
  by_cases hd : s.isDown .east = true ∧ s.isDown .west = true
  · rw [openedRoll_of_down cause hd]
    exact openedRoll_of_down (s := { s with report := r }) cause hd
  · rw [openedRoll_of_up cause hd, ← hsend]
    exact openedRoll_of_up (s := { s with report := r }) cause hd

/-- The pool and the queues that a round's start leaves do not depend on the report unit. -/
theorem beginRound_sends_withReport (cause : RollCause) (r : ReportUnit) (s : State) :
    (beginRound cause { s with report := r }).pool = (beginRound cause s).pool ∧
      (beginRound cause { s with report := r }).egress = (beginRound cause s).egress := by
  obtain ⟨hegress, hpool⟩ := beginRound_sends cause s
  obtain ⟨hegress', hpool'⟩ := beginRound_sends cause { s with report := r }
  rw [hegress, hpool, hegress', hpool', openedRoll_withReport]
  exact ⟨rfl, rfl⟩

/-- A step of the roll unit that sends nothing. -/
def SendsNothing (s t : State) : Prop := t.pool = s.pool ∧ t.egress = s.egress

theorem SendsNothing.trans {s t u : State} (h : SendsNothing s t) (g : SendsNothing t u) : SendsNothing s u :=
  ⟨g.1.trans h.1, g.2.trans h.2⟩

theorem closeRound_sendsNothing (s : State) : SendsNothing s (closeRound s) :=
  ⟨(note_pool ..).trans (addNotice_pool ..), closeRound_egress s⟩

theorem beginRound_sendsNothing (cause : RollCause) (hd : s.isDown .east = true ∧ s.isDown .west = true) :
    SendsNothing s (beginRound cause s) := by
  obtain ⟨hegress, hpool⟩ := beginRound_sends cause s
  rw [SendsNothing, hegress, hpool, openedRoll_of_down cause hd]
  exact ⟨rfl, rfl⟩

theorem startLastRound_sendsNothing (cause : RollCause) (hd : s.isDown .east = true ∧ s.isDown .west = true) :
    SendsNothing s (startLastRound cause s) := by
  have hbegin := beginRound_sendsNothing cause hd
  unfold startLastRound
  dsimp only
  split
  · exact hbegin.trans (closeRound_sendsNothing _)
  · exact hbegin

theorem endRound_sendsNothing (hd : s.isDown .east = true ∧ s.isDown .west = true) : SendsNothing s (endRound s) := by
  let u : State := { s with roll := { s.roll with again := false } }
  have hclose : SendsNothing s (closeRound u) := closeRound_sendsNothing u
  have hdown (p : Port) : (closeRound u).isDown p = s.isDown p := (SameBut.closeRound u).isDown p
  unfold endRound
  dsimp only
  split
  · exact hclose.trans (startLastRound_sendsNothing .again (by rw [hdown, hdown]; exact hd))
  · exact hclose

theorem startRound_sendsNothing (cause : RollCause) (hd : s.isDown .east = true ∧ s.isDown .west = true) :
    SendsNothing s (startRound cause s) := by
  have hbegin := beginRound_sendsNothing cause hd
  have hdown (p : Port) : (beginRound cause s).isDown p = s.isDown p := (SameBut.beginRound cause s).isDown p
  unfold startRound
  dsimp only
  split
  · exact hbegin.trans (endRound_sendsNothing (by rw [hdown, hdown]; exact hd))
  · exact hbegin

/-- A trigger during a round, or with both ring ports DOWN, sends no roll. -/
theorem autoTrigger_sendsNothing (h : s.roll.running = true ∨ s.isDown .east = true ∧ s.isDown .west = true) :
    SendsNothing s (autoTrigger s) := by
  unfold autoTrigger
  split
  · exact ⟨rfl, rfl⟩
  · exact startRound_sendsNothing .auto (h.resolve_left ‹_›)

/-- A round that starts with some ring port not DOWN has an OPEN lane. -/
theorem openRound_not_complete (cause : RollCause) (hup : ¬ (s.isDown .east = true ∧ s.isDown .west = true)) :
    (openRound cause s).roll.complete = false := by
  unfold openRound RollUnit.complete startLane
  cases he : s.isDown .east <;> cases hw : s.isDown .west
  · rfl
  · rfl
  · rfl
  · exact absurd ⟨he, hw⟩ hup

theorem autoTrigger_begins (hr : s.roll.running = false) (hup : ¬ (s.isDown .east = true ∧ s.isDown .west = true)) :
    autoTrigger s = beginRound .auto s := by
  have hopen : (beginRound .auto s).roll.complete = false := by
    rw [beginRound_roll]
    exact openRound_not_complete .auto hup
  rw [autoTrigger, hr, if_neg Bool.false_ne_true, startRound]
  exact if_neg (by rw [hopen]; exact Bool.false_ne_true)

end Trigger

end Sys2Proof.Machine
end

section
/-! ## The end of a check period (R130, R137) -/

namespace Sys2Proof.Machine

section Period
variable {s : State}

/-- The state with both lanes judged and nothing told of it. -/
def judgedLanes (s : State) : State :=
  s.withLanes (s.check.lanes.e.judge s.cfg.profile.missLimit) (s.check.lanes.w.judge s.cfg.profile.missLimit)

/-- The judged state with its changes noted, and nothing triggered. -/
def judgedNotes (s : State) : State :=
  (s.check.changedItems (judgedLanes s).check).foldl (fun u i => note i u) (judgedLanes s)

theorem judgePeriod_sameBut (s : State) : SameBut (judgedLanes s) (judgePeriod s) := .tellLanes ..

theorem judgedNotes_eq (s : State) : judgedNotes s = { judgedLanes s with report := (judgedNotes s).report } :=
  (foldl_note_eq _ (judgedLanes s)).1

theorem judgedNotes_report (s : State) : (judgedNotes s).report =
    { s.report with changes := (judgedNotes s).report.changes, more := (judgedNotes s).report.more } :=
  (foldl_note_eq _ (judgedLanes s)).2

theorem judgedNotes_noted (s : State) : s.Noted (s.check.changedItems (judgedLanes s).check) (judgedNotes s).report := by
  have hlists : SameNotes (judgedLanes s) s := ⟨rfl, rfl, rfl⟩
  exact .of_sameNotes (hlists.notes _)

theorem judgePeriod_untold (h : (judgedLanes s).check.ring = s.check.ring ∨ s.cfg.autoRoll = false) :
    judgePeriod s = judgedNotes s := tellLanes_eq_notes s.check (judgedLanes s) h

theorem settle_of_not_restart (h : s.report.restartDue = false) : settle s = followConditions (reportService s) :=
  if_neg (by rw [h]; exact Bool.false_ne_true)

/-- The queues and the pool at a period's end that triggers a round: the report that waits is composed, and then the
round's roll is sent, where a round begins that has an OPEN lane. -/
theorem judgePeriod_trigger (hr : (judgedLanes s).check.ring ≠ s.check.ring) (ha : s.cfg.autoRoll = true)
    (hdue : s.report.restartDue = false) :
    (s.roll.running = true ∨ s.isDown .east = true ∧ s.isDown .west = true →
      SendsNothing (settle (judgedNotes s)) (judgePeriod s)) ∧
    (s.roll.running = false → ¬ (s.isDown .east = true ∧ s.isDown .west = true) →
      SendsNothing (beginRound .auto (settle (judgedNotes s))) (judgePeriod s)) := by
  have hnotes := judgedNotes_eq s
  have hjudge : judgePeriod s = autoTrigger (reportService (judgedNotes s)) :=
    tellLanes_eq_trigger s.check (s := judgedLanes s) hr ha
  have hsettle : settle (judgedNotes s) = followConditions (reportService (judgedNotes s)) :=
    settle_of_not_restart (by rw [judgedNotes_report]; exact hdue)
  have hroll : (reportService (judgedNotes s)).roll = s.roll := by
    rw [reportService_roll, hnotes]
    rfl
  have hdown (p : Port) : (reportService (judgedNotes s)).isDown p = s.isDown p := by
    rw [(SameBut.reportService _).isDown, hnotes]
    rfl
  rw [hjudge, hsettle]
  generalize reportService (judgedNotes s) = u at *
  have hfollow : SendsNothing (followConditions u) u := ⟨rfl, rfl⟩
  refine ⟨fun h => hfollow.trans (autoTrigger_sendsNothing (by rwa [hroll, hdown, hdown])), fun hrun hup => ?_⟩
  rw [autoTrigger_begins (by rwa [hroll]) (by rwa [hdown, hdown])]
  obtain ⟨hpool, hegress⟩ := beginRound_sends_withReport .auto (followConditions u).report u
  exact ⟨hpool.symm, hegress.symm⟩

end Period

theorem exec_checkPeriodExpiry {s : State} (h : s.clock.due s.check.period = true) : exec .checkPeriodExpiry s =
    .next (settle (beginPeriod (rearmed s.check.period s.checkPeriod) (judgePeriod s))) := by
  simp only [exec, execCheckPeriodExpiry, finish, if_pos h]

theorem exec_checkPeriodExpiry_of_not {s : State} (h : s.clock.due s.check.period = false) :
    exec .checkPeriodExpiry s = .next (settle s) := by
  simp [exec, execCheckPeriodExpiry, finish, h]

end Sys2Proof.Machine

open Sys2Proof Sys2Proof.Machine

/-- Settles O44: the lanes are judged, what changed is told, and then the next period begins with its CHECK frame. -/
theorem checkPeriodsJudgeBothLanes : Obligations.CheckPeriodsJudgeBothLanes := by
  intro s
  refine ⟨exec_checkPeriodExpiry_of_not, ?_⟩
  intro hdue judged down bothDown content
  let m := judgePeriod s
  let w : State := { m with check := { m.check with
    number := m.check.number + 1, period := rearmed s.check.period s.checkPeriod } }
  have hm : SameBut (judgedLanes s) m := judgePeriod_sameBut s
  obtain ⟨hsame, hroll, hreport, heg⟩ := sendCheck_spec w
  have hdown (p : Port) : w.isDown p = s.isDown p := hm.isDown p
  have hcheck : (sendCheck w).check = { s.check with
      number := s.check.number + 1
      period := rearmed s.check.period s.checkPeriod
      lanes := ⟨((judgedLanes s).check.lanes.e.countSent (w.checkSent .east)),
        ((judgedLanes s).check.lanes.w.countSent (w.checkSent .west))⟩
      ring := (judgedLanes s).check.ring } := by
    refine hsame.check.trans ?_
    unfold State.sentLanes
    simp only [w, hm.check]
    rfl
  have hjudged (l : CheckLane) (b : Bool) : judged l ((l.judge s.cfg.profile.missLimit).countSent b) := by
    obtain ⟨hreturned, hlatency, hreturns, hlate, -, hkeeps, hmisses⟩ := l.judge_spec s.cfg.profile.missLimit
    rw [CheckLane.countSent_spec]
    exact ⟨hreturned, hlatency, hreturns, hlate, hkeeps, hmisses⟩
  have hsent (l : CheckLane) (b : Bool) : ({ (l.judge s.cfg.profile.missLimit).countSent b with sent := l.sent } :
      CheckLane) = l.judge s.cfg.profile.missLimit := by
    obtain ⟨-, -, -, -, hsent, -⟩ := l.judge_spec s.cfg.profile.missLimit
    rw [CheckLane.countSent_spec, ← hsent]
  have hitems : s.check.changedItems (sendCheck w).check = s.check.changedItems (judgedLanes s).check := by
    rw [hcheck]
    simp only [CheckLane.countSent_spec]
    rfl
  refine ⟨sendCheck w, judgedNotes s, m, exec_checkPeriodExpiry hdue, ?_, ?_, ?_, ?_, hsame.ports.trans hm.ports,
    hsame.tagger.trans hm.tagger, hsame.sources.trans hm.sources, hsame.slots.trans hm.slots,
    hsame.time.trans hm.time, hsame.clock.trans hm.clock, judgedNotes_report s, ?_, ?_, ?_, ?_, hroll, hreport,
    heg .tap (.inl rfl), ?_, ?_, ?_⟩
  · rw [hcheck]
    exact hjudged ..
  · rw [hcheck]
    exact hjudged ..
  · rw [hcheck]
  · rw [hcheck]
    rfl
  · rw [hitems]
    exact judgedNotes_noted s
  · rw [hcheck]
    refine (judgedNotes_eq s).trans ?_
    simp only [judgedLanes, State.withLanes, hsent]
  · rw [hcheck]
    exact judgePeriod_untold
  · rw [hcheck]
    intro hr ha hrestart
    obtain ⟨hkeeps, hbegins⟩ := judgePeriod_trigger hr ha hrestart
    exact ⟨hkeeps, hbegins⟩
  · intro hboth
    rw [sendCheck_of_down (s := w) (by rwa [hdown, hdown])]
    exact ⟨rfl, rfl⟩
  · intro hup hf
    rw [sendCheck_refused (s := w) (by rwa [hdown, hdown]) hf]
    exact ⟨rfl, rfl⟩
  · intro hup hf hwf he hw x
    have hupw : ¬ (w.isDown .east = true ∧ w.isDown .west = true) := by rwa [hdown, hdown]
    have hroom : w.UrgentRoom 1 := State.urgentRoom_one (by rw [hdown]; exact he) (by rw [hdown]; exact hw)
    have hloader : w.loader = s.loader := hm.loader
    have hclock : w.clock = s.clock := hm.clock
    have hnumber : w.check.number = s.check.number + 1 :=
      (congrArg (fun c : RingCheck => c.number + 1) hm.check).trans rfl
    have hcontent : checkContent w = content := by
      simp only [checkContent, internalHeader, State.cfg, hloader, hclock, hnumber]
      rfl
    have hcount (p : Port) (l : CheckLane) :
        ((l.judge s.cfg.profile.missLimit).countSent (w.checkSent p)).sent = if down p then l.sent else raise l.sent := by
      obtain ⟨-, -, -, -, hsent, -⟩ := l.judge_spec s.cfg.profile.missLimit
      rw [countSent_checkSent (s := w) hf, hsent, hdown]
    obtain ⟨heast, hwest, hbuffer⟩ := sendCheck_queued (s := w) hupw hf hwf hroom
    simp only [internalMark, State.node, State.cfg, hloader, hclock, hnumber, hdown, hcontent] at heast hwest hbuffer
    rw [hcheck]
    exact ⟨heast, hwest, hbuffer, hcount .east _, hcount .west _⟩
end

section
/-! ## A ring member's first frames (R130, R141, R179) -/

namespace Sys2Proof.Machine

/-! ### What a TIME frame leaves (R141) -/

theorem SameBut.withTagger {s t : State} (h : SameBut s t) (g : Tagger) (u : TimeBase) :
    SameBut { s with tagger := g, time := u } { t with tagger := g, time := u } := { h with tagger := rfl, time := rfl }

/-- A TIME frame takes a number and is counted where it is composed, and else concerns pool and ring queues alone. -/
theorem sendTime_spec (s : State) :
    SameBut { s with tagger := (sendTime s).tagger, time := (sendTime s).time } (sendTime s) ∧
      (sendTime s).time.period = s.time.period ∧ (sendTime s).roll = s.roll ∧ (sendTime s).report = s.report ∧
      ∀ p, p = .tap ∨ s.isDown p = true → (sendTime s).eg p = s.eg p := by
  by_cases hd : s.isDown .east = true ∧ s.isDown .west = true
  · rw [sendTime_of_down hd.1 hd.2]
    exact ⟨.refl s, rfl, rfl, rfl, fun _ _ => rfl⟩
  · have hup := up_of_not_down hd
    by_cases hf : s.free = 0
    · rw [sendTime_refused hup hf]
      exact ⟨.parts s s.report _ s.egress s.roll, rfl, rfl, rfl, fun _ _ => rfl⟩
    · rw [sendTime_composed hup (Nat.one_le_iff_ne_zero.mpr hf)]
      obtain ⟨hsame, hroll, hreport, heg⟩ := ringQueued_spec (m := internalMark .time s.tagger.seq s) nofun
        (pad60 (timeContent s)) { s with tagger := { s.tagger with seq := s.tagger.seq + 1 } }
      exact ⟨hsame.withTagger _ _, rfl, hroll, hreport, heg⟩

/-! ### The start of a ring member -/

/-- A ring member with its check and report periods begun, and no frame composed (R130, R186). -/
def periodsBegun (s : State) : State := { s with
  report := { s.report with period := reportPeriodTimer s }
  check := { s.check with number := s.check.number + 1, period := some (s.clock.timer s.checkPeriod) } }

/-- The time source's period begun (R141). -/
def timeBegun (s : State) : State :=
  { s with time := { s.time with period := some (s.clock.timer s.timePeriod) } }

/-- A ring member that sends TIME frames (R141). -/
def State.SendsTime (s : State) : Prop := s.loader.nodeState = .running ∧ s.isTimeSource = true

section Member
variable {s : State}

theorem sendCheck_sendsTime (s : State) : (sendCheck (periodsBegun s)).SendsTime ↔ s.SendsTime := by
  obtain ⟨hsame, -⟩ := sendCheck_spec (periodsBegun s)
  have hloader : (sendCheck (periodsBegun s)).loader = s.loader := hsame.loader
  simp only [State.SendsTime, State.isTimeSource, State.node, State.cfg, hloader]

theorem startMember_of_source (h : s.SendsTime) :
    startMember s = sendTime (timeBegun (sendCheck (periodsBegun s))) := if_pos ((sendCheck_sendsTime s).mpr h)

theorem startMember_of_not (h : ¬ s.SendsTime) : startMember s = sendCheck (periodsBegun s) :=
  if_neg (mt (sendCheck_sendsTime s).mp h)

/-- What a ring member's start leaves, whatever frames it sends. -/
theorem startMember_spec (s : State) :
    SameBut { periodsBegun s with
      check := { (periodsBegun s).check with lanes := (periodsBegun s).sentLanes }
      tagger := (startMember s).tagger, time := (startMember s).time } (startMember s) ∧
    (startMember s).roll = s.roll ∧
    (startMember s).report = { s.report with period := reportPeriodTimer s } ∧
    (s.SendsTime → (startMember s).time.period = some (s.clock.timer s.timePeriod)) ∧
    (¬ s.SendsTime → (startMember s).time = s.time ∧ (startMember s).tagger = s.tagger) ∧
    ∀ p, p = .tap ∨ s.isDown p = true → (startMember s).eg p = s.eg p := by
  obtain ⟨hsame, hroll, hreport, heg⟩ := sendCheck_spec (periodsBegun s)
  by_cases h : s.SendsTime
  · obtain ⟨hsameT, hperiod, hrollT, hreportT, hegT⟩ := sendTime_spec (timeBegun (sendCheck (periodsBegun s)))
    rw [startMember_of_source h]
    have hdown (p : Port) : (timeBegun (sendCheck (periodsBegun s))).isDown p = s.isDown p := hsame.isDown p
    refine ⟨(hsame.withTagger _ _).trans hsameT, hrollT.trans hroll, hreportT.trans hreport, fun _ => ?_,
      fun hn => absurd h hn, fun p hp => (hegT p (by rwa [hdown])).trans (heg p hp)⟩
    refine hperiod.trans ?_
    have hclock : (sendCheck (periodsBegun s)).clock = s.clock := hsame.clock
    have hloader : (sendCheck (periodsBegun s)).loader = s.loader := hsame.loader
    simp only [timeBegun, State.timePeriod, State.cfg, hclock, hloader]
  · rw [startMember_of_not h]
    have htime : (sendCheck (periodsBegun s)).time = s.time := hsame.time
    have htagger : (sendCheck (periodsBegun s)).tagger = s.tagger := hsame.tagger
    refine ⟨?_, hroll, hreport, fun hs => absurd hs h, fun _ => ⟨htime, htagger⟩, heg⟩
    rw [htime, htagger]
    exact hsame

/-! ### The frames a ring member starts with -/

theorem State.UrgentRoom.mono {n k : Nat} (h : s.UrgentRoom n) (hk : k ≤ n) : s.UrgentRoom k :=
  fun p hp => (Nat.add_le_add_left hk _).trans (h p hp)

/-- A sent frame's entry is at the tail of each URGENT queue that it joined. -/
theorem ringSent_eg (bytes : List Byte) (m : Mark) (p : RingPort) (hp : s.isDown p.port = false) :
    (ringSent bytes m s).eg p.port = { s.eg p.port with
      urgent := (s.eg p.port).urgent ++ [⟨s.pool.take.1, m, s.clock.timerUnits⟩] } := by
  have hjoin (e : Egress) (x : Entry) : e.joinUrgent (s.isDown p.port) x = { e with urgent := e.urgent ++ [x] } :=
    if_neg (ne_true_of_eq_false hp)
  cases p <;> exact hjoin ..

/-- A frame sent takes one place of each URGENT queue that it joined. -/
theorem ringSent_room (bytes : List Byte) (m : Mark) {n : Nat} (h : s.UrgentRoom (n + 1)) :
    (ringSent bytes m s).UrgentRoom n := by
  intro p hp
  rw [ringSent_eg (s := s) bytes m p hp, List.length_append, List.length_singleton]
  have hroom := h p hp
  omega

/-- The first CHECK frame, sent: the state once it waits. -/
theorem sendCheck_first (hup : ¬ (s.isDown .east = true ∧ s.isDown .west = true)) (hf : 1 ≤ s.free)
    (hroom : s.UrgentRoom 1) : sendCheck (periodsBegun s) =
      { ringSent (pad60 (checkContent (periodsBegun s))) (internalMark .check (s.check.number + 1) s)
          (periodsBegun s) with
        check := { (periodsBegun s).check with lanes := (periodsBegun s).sentLanes } } :=
  sendCheck_sent (s := periodsBegun s) hup hf hroom

theorem startMember_of_down (hd : s.isDown .east = true ∧ s.isDown .west = true) :
    (startMember s).pool = s.pool ∧ (startMember s).tagger = s.tagger ∧ (startMember s).time.sent = s.time.sent := by
  have hcheck : sendCheck (periodsBegun s) = periodsBegun s := sendCheck_of_down hd
  by_cases h : s.SendsTime
  · rw [startMember_of_source h, hcheck, sendTime_of_down (s := timeBegun (periodsBegun s)) hd.1 hd.2]
    exact ⟨rfl, rfl, rfl⟩
  · rw [startMember_of_not h, hcheck]
    exact ⟨rfl, rfl, rfl⟩

/-- Without a buffer each frame of the start is refused. -/
theorem startMember_refused (hup : ¬ (s.isDown .east = true ∧ s.isDown .west = true)) (hf : s.free = 0) :
    (startMember s).egress = s.egress ∧
      ((startMember s).tagger = s.tagger ∧ (startMember s).time.sent = s.time.sent) ∧
      (startMember s).pool = { s.pool with refused := (startMember s).pool.refused } ∧
      (s.SendsTime → (startMember s).pool.refused = raise (raise s.pool.refused)) ∧
      (¬ s.SendsTime → (startMember s).pool.refused = raise s.pool.refused) := by
  have hcheck : sendCheck (periodsBegun s) = { periodsBegun s with
      pool := { s.pool with refused := raise s.pool.refused } } := sendCheck_refused (s := periodsBegun s) hup hf
  by_cases h : s.SendsTime
  · have htime := sendTime_refused (s := timeBegun { periodsBegun s with
      pool := { s.pool with refused := raise s.pool.refused } }) (up_of_not_down hup) hf
    rw [startMember_of_source h, hcheck, htime]
    exact ⟨rfl, ⟨rfl, rfl⟩, rfl, fun _ => rfl, fun hn => absurd h hn⟩
  · rw [startMember_of_not h, hcheck]
    exact ⟨rfl, ⟨rfl, rfl⟩, rfl, fun hs => absurd hs h, fun _ => rfl⟩

/-- With a buffer for the CHECK frame alone, or no TIME frame to send, the CHECK frame is the one sent. -/
theorem startMember_check (hup : ¬ (s.isDown .east = true ∧ s.isDown .west = true)) (hf : 1 ≤ s.free)
    (hwf : s.pool.wf = true) (hroom : s.UrgentRoom 1) (hone : ¬ s.SendsTime ∨ s.free = 1) :
    (∀ p : RingPort, s.isDown p.port = false → (startMember s).eg p.port = { s.eg p.port with
      urgent := (s.eg p.port).urgent ++
        [⟨s.pool.take.1, internalMark .check (s.check.number + 1) s, s.clock.timerUnits⟩] }) ∧
      ((startMember s).tagger = s.tagger ∧ (startMember s).time.sent = s.time.sent) ∧
      (startMember s).buffer s.pool.take.1 =
        ⟨if s.isDown .east = true ∨ s.isDown .west = true then 1 else 2, pad60 (checkContent (periodsBegun s)),
          false⟩ ∧
      (s.SendsTime → (startMember s).pool.refused = raise s.pool.refused) ∧
      (¬ s.SendsTime → (startMember s).pool.refused = s.pool.refused) := by
  have hcheck := sendCheck_first hup hf hroom
  have hupg := up_of_not_down hup
  have hbuffer := ringSent_buffer (pad60 (checkContent (periodsBegun s)))
    (internalMark .check (s.check.number + 1) s) (s := periodsBegun s) hupg hwf hf
  have heg := ringSent_eg (pad60 (checkContent (periodsBegun s))) (internalMark .check (s.check.number + 1) s)
    (s := periodsBegun s)
  have hrefused := Pool.ringSent_refused s.pool (pad60 (checkContent (periodsBegun s))) (!s.isDown .east)
    (!s.isDown .west)
  by_cases h : s.SendsTime
  · have hfree : (sendCheck (periodsBegun s)).free = 0 := by
      obtain ⟨-, hfree⟩ := Pool.ringSent_spec (pad60 (checkContent (periodsBegun s))) (east := !s.isDown .east)
        (west := !s.isDown .west) (by simpa using hupg) hwf hf
      have hs : s.pool.free = 1 := hone.resolve_left (not_not_intro h)
      rw [hcheck]
      exact Nat.succ_injective (hfree.trans hs)
    have htime := sendTime_refused (s := timeBegun (sendCheck (periodsBegun s))) (by rw [hcheck]; exact hupg) hfree
    rw [startMember_of_source h, htime, hcheck]
    exact ⟨heg, ⟨rfl, rfl⟩, hbuffer, fun _ => congrArg raise hrefused, fun hn => absurd h hn⟩
  · rw [startMember_of_not h, hcheck]
    exact ⟨heg, ⟨rfl, rfl⟩, hbuffer, fun hs => absurd hs h, fun _ => hrefused⟩

/-- With two buffers the time source sends its CHECK frame and then its TIME frame. -/
theorem startMember_both (hup : ¬ (s.isDown .east = true ∧ s.isDown .west = true)) (hf : 2 ≤ s.free)
    (hwf : s.pool.wf = true) (hroom : s.UrgentRoom 2) (h : s.SendsTime) :
    let frame (bytes : List Byte) : Buffer :=
      ⟨if s.isDown .east = true ∨ s.isDown .west = true then 1 else 2, pad60 bytes, false⟩
    ∃ second, second ≠ s.pool.take.1 ∧ s.pool.get? second = none ∧
      (∀ p : RingPort, s.isDown p.port = false → (startMember s).eg p.port = { s.eg p.port with
        urgent := (s.eg p.port).urgent ++
          [⟨s.pool.take.1, internalMark .check (s.check.number + 1) s, s.clock.timerUnits⟩,
            ⟨second, internalMark .time s.tagger.seq s, s.clock.timerUnits⟩] }) ∧
      (startMember s).buffer s.pool.take.1 = frame (checkContent (periodsBegun s)) ∧
      (startMember s).buffer second = frame (timeContent s) ∧
      (startMember s).pool.refused = s.pool.refused ∧
      (startMember s).tagger = { s.tagger with seq := s.tagger.seq + 1 } ∧
      (startMember s).time.sent = raise s.time.sent := by
  intro frame
  have hupg := up_of_not_down hup
  have hf1 : 1 ≤ s.pool.free := Nat.le_of_succ_le hf
  have hcheck := sendCheck_first hup hf1 (hroom.mono (Nat.le_succ 1))
  have heg := ringSent_eg (pad60 (checkContent (periodsBegun s))) (internalMark .check (s.check.number + 1) s)
    (s := periodsBegun s)
  have hroom1 := ringSent_room (s := periodsBegun s) (pad60 (checkContent (periodsBegun s)))
    (internalMark .check (s.check.number + 1) s) (n := 1) hroom
  let q := s.pool.ringSent (pad60 (checkContent (periodsBegun s))) (!s.isDown .east) (!s.isDown .west)
  obtain ⟨hget, hfree⟩ := Pool.ringSent_spec (pad60 (checkContent (periodsBegun s))) (east := !s.isDown .east)
    (west := !s.isDown .west) (by simpa using hupg) hwf hf1
  have hqwf : q.wf = true := Pool.ringSent_wf _ _ _ hwf hf1
  have hqfree : 1 ≤ q.free := by
    have : q.free + 1 = s.pool.free := hfree
    have : 2 ≤ s.pool.free := hf
    omega
  obtain ⟨hfresh, -⟩ := Pool.get?_take hqwf q.take.1
  have hne : q.take.1 ≠ s.pool.take.1 := by
    intro heq
    rw [heq] at hfresh
    exact absurd (hget.symm.trans hfresh) nofun
  let v : State := timeBegun { ringSent (pad60 (checkContent (periodsBegun s)))
      (internalMark .check (s.check.number + 1) s) (periodsBegun s) with
    check := { (periodsBegun s).check with lanes := (periodsBegun s).sentLanes } }
  have hstart : startMember s = _ := (startMember_of_source h).trans
    ((congrArg (fun c => sendTime (timeBegun c)) hcheck).trans (sendTime_sent (s := v) hupg hqfree hroom1))
  have hfirst := Pool.ringSent_get?_of_ne (pad60 (timeContent v)) (!s.isDown .east) (!s.isDown .west) hqwf hqfree
    (k := s.pool.take.1) hne.symm
  rw [hstart]
  refine ⟨q.take.1, hne, ?_, fun p hp => ?_, ?_, ?_, ?_, rfl, rfl⟩
  · rw [← hfresh]
    exact (Pool.ringSent_get?_of_ne _ _ _ hwf hf1 hne).symm
  · refine (ringSent_eg (s := v) (pad60 (timeContent v)) (internalMark .time v.tagger.seq v) p hp).trans ?_
    rw [show v.eg p.port = _ from heg p hp, List.append_assoc]
    rfl
  · exact (congrArg (Option.getD · ⟨0, [], false⟩) hfirst).trans
      (ringSent_buffer (pad60 (checkContent (periodsBegun s))) (internalMark .check (s.check.number + 1) s) (s := periodsBegun s) hupg hwf hf1)
  · exact ringSent_buffer (pad60 (timeContent v)) (internalMark .time v.tagger.seq v) (s := v) hupg hqwf hqfree
  · exact (Pool.ringSent_refused q ..).trans (Pool.ringSent_refused s.pool ..)

end Member

end Sys2Proof.Machine
end

section
/-! ## The epoch write-back and the end of LOADING (R178, R179) -/

namespace Sys2Proof.Machine

/-! ### The end of LOADING (R108, R118, R175, R179) -/

section EndLoading
variable {s o : State} {d : Draft}

theorem slot_watchTable (c : Clock) (running : Bool) (watch : List WatchConfig) {i : Nat} (hi : i < 32) :
    ((watchTable c running watch)[i]?).getD {} = match watch[i]? with
      | some w => placedSlot c running w
      | none => {} := by
  have h := congrArg (Option.getD · ({} : Slot)) (Vector.getElem?_ofFn (n := 32) (i := i) (f := fun i : Fin 32 =>
    match watch[i.val]? with
    | some w => placedSlot c running w
    | none => {}))
  rw [dif_pos hi] at h
  exact h

theorem placedSlot_eq (c : Clock) (n : NodeState) (w : WatchConfig) : placedSlot c (n == .running) w =
    { inUse := true
      config := w
      deadline := if n = .running ∧ w.required = true then
        some ⟨c.timerUnits, w.allowN * (w.interval.toNat * 10)⟩ else none } := by
  simp [placedSlot, Clock.timer]

theorem CheckLane.countSent_checkSent (s : State) (p : Port) (l : CheckLane) : l.countSent (s.checkSent p) =
    { l with sent := if s.isDown p = true ∨ s.free = 0 then l.sent else raise l.sent } := by
  rw [CheckLane.countSent_spec, State.checkSent]
  by_cases hd : s.isDown p = true
  · simp [hd]
  · by_cases hf : s.free = 0
    · simp [hf]
    · simp [hd, hf, Nat.one_le_iff_ne_zero]

/-- The node state's item is noted as in LOADING, unless the node goes back to RESET (R185). -/
theorem note_fixConfiguration (d : Draft) (hreport : o.report = s.report) (hn : s.loader.nodeState = .loading) :
    ∃ r, note .nodeState (fixConfiguration d o) = { fixConfiguration d o with report := r } ∧
      r.period = s.report.period ∧ (d.next ≠ .reset → r = (note .nodeState s).report) := by
  refine ⟨_, note_eq .nodeState (fixConfiguration d o), ?_, fun hr => ?_⟩
  · rw [note_report, ← hreport]
    rfl
  · have hstate : (fixConfiguration d o).loader.nodeState ≠ .reset := hr
    have hlists : (fixConfiguration d o).report = s.report := hreport
    unfold note
    simp only [hstate, hn, hlists, reduceCtorEq, false_or]
    split
    · exact hreport
    · split <;> rfl

/-- LOADING ends in the fixed state with the item noted, and a ring member starts from there. -/
theorem endLoading_starts (hd : o.loader.draft = some d) (hreport : o.report = s.report)
    (hn : s.loader.nodeState = .loading) :
    ∃ r, r.period = s.report.period ∧ (d.next ≠ .reset → r = (note .nodeState s).report) ∧
      (d.next = .running ∨ d.next = .fallback → endLoading o = startMember { fixConfiguration d o with report := r }) ∧
      (¬ (d.next = .running ∨ d.next = .fallback) → endLoading o = { fixConfiguration d o with report := r }) := by
  obtain ⟨r, hu, hperiod, hr⟩ := note_fixConfiguration d hreport hn
  have hmember : ({ fixConfiguration d o with report := r } : State).member = true ↔
      d.next = .running ∨ d.next = .fallback := by
    show (d.next == .running || d.next == .fallback) = true ↔ _
    simp
  have hend : endLoading o = if ({ fixConfiguration d o with report := r } : State).member then
      startMember { fixConfiguration d o with report := r } else { fixConfiguration d o with report := r } := by
    unfold endLoading
    rw [hd]
    dsimp only
    rw [hu]
  exact ⟨r, hperiod, hr, fun h => hend.trans (if_pos (hmember.mpr h)), fun h => hend.trans (if_neg (mt hmember.mp h))⟩

theorem sendsTime_fixConfiguration (d : Draft) (o : State) (r : ReportUnit) :
    ({ fixConfiguration d o with report := r } : State).SendsTime ↔
      d.next = .running ∧ d.settings.timeSource ≠ 0 ∧ d.settings.timeSource = d.settings.nodeNumber := by
  show d.next = .running ∧ (d.settings.timeSource != 0 && d.settings.timeSource == d.settings.nodeNumber) = true ↔ _
  simp

/-- The watch table placed: a required slot's deadline starts in RUNNING (R108, R118). -/
theorem slot_fixConfiguration (d : Draft) (o : State) {i : Nat} (hi : i < 32) :
    (fixConfiguration d o).slot i = match d.watch[i]? with
      | some w =>
        { inUse := true
          config := w
          deadline := if d.next = .running ∧ w.required = true then
            some ⟨o.clock.timerUnits, w.allowN * (w.interval.toNat * 10)⟩ else none }
      | none => {} := by
  refine (slot_watchTable o.clock (d.next == .running) d.watch hi).trans ?_
  cases d.watch[i]? with
  | none => rfl
  | some w => exact placedSlot_eq ..

end EndLoading

/-! ### The epoch's read, write and poll (R178) -/

section Epoch
variable {s : State}

theorem State.loadingIn_of {ph : LoadPhase} (hn : s.loader.nodeState = .loading) (hp : s.loader.phase = ph) :
    s.loadingIn ph = true := by
  simp [State.loadingIn, hn, hp]

/-- The own epoch is the stored one plus 1, modulo 16. -/
theorem epoch_succ (b : Byte) : (b + 1).setWidth 4 = BitVec.ofNat 4 ((b.toNat + 1) % 16) := by
  apply BitVec.eq_of_toNat_eq
  have hone : (1 : Byte).toNat = 1 := rfl
  simp only [BitVec.toNat_setWidth, BitVec.toNat_add, BitVec.toNat_ofNat, hone]
  omega

theorem exec_epochReadAttempt {failed : Nat} (hn : s.loader.nodeState = .loading)
    (hp : s.loader.phase = .epochRead failed) (read : EpochRead) :
    exec (.epochReadAttempt read) s = .next (settle (endEpochRead failed read s)) := by
  simp only [exec, execEpochReadAttempt, finish, hn, hp]

theorem exec_epochWrite (hn : s.loader.nodeState = .loading) (hp : s.loader.phase = .epochWrite)
    (failure : Option BusFailure) : exec (.epochWrite failure) s = .next (settle (endEpochWrite failure s)) := by
  simp only [exec, execEpochWrite, finish, State.loadingIn_of hn hp, if_true]

theorem exec_epochPoll (hn : s.loader.nodeState = .loading) (hp : s.loader.phase = .epochPoll) (acked : Bool) :
    exec (.epochPoll acked) s = .next (settle (if acked then endLoading (endTransaction pollOps s)
      else beginTransaction .epochPoll (endTransaction pollOps s))) := by
  simp only [exec, execEpochPoll, finish, State.loadingIn_of hn hp, if_true]

theorem exec_epochPollTimeout (hn : s.loader.nodeState = .loading) (hp : s.loader.phase = .epochPoll)
    (hd : s.clock.due s.loader.pollTimer = true) :
    exec .epochPollTimeout s = .next (settle (epochWriteFailed (endTransaction [] s))) := by
  simp only [exec, execEpochPollTimeout, finish, State.loadingIn_of hn hp, hd, Bool.and_self, if_true]

theorem exec_epochPollTimeout_of_not (hd : s.clock.due s.loader.pollTimer = false) :
    exec .epochPollTimeout s = .next (settle s) := by
  simp [exec, execEpochPollTimeout, finish, hd]

end Epoch

end Sys2Proof.Machine

open Sys2Proof Sys2Proof.Machine

/-- Settles O55: each command of the write-back is one step of its transaction, and the last ones end LOADING, by the
one lemma on its end that `ends` and the first frames follow from. -/
theorem loadingEndsWithTheEpochWriteBack : Obligations.LoadingEndsWithTheEpochWriteBack := by
  intro s hn owed fixed member firstFrames ends addressing
  have hends (bus : List BusOp) (w : Warnings) (d : Draft) (hd : s.loader.draft = some d) :
      ends d (endLoading { s with loader := { s.loader with bus := bus, warnings := w } }) ∧
        (endLoading { s with loader := { s.loader with bus := bus, warnings := w } }).loader.bus = bus ∧
        (endLoading { s with loader := { s.loader with bus := bus, warnings := w } }).loader.warnings = w := by
    let o : State := { s with loader := { s.loader with bus := bus, warnings := w } }
    obtain ⟨r, hperiod, hr, hstarts, hstays⟩ := endLoading_starts (s := s) (o := o) hd rfl hn
    let u : State := { fixConfiguration d o with report := r }
    have hslot (i : Nat) (hi : i < 32) := slot_fixConfiguration d o hi
    have hsource : u.SendsTime ↔ _ := sendsTime_fixConfiguration d o r
    by_cases hm : member d
    · rw [hstarts hm]
      obtain ⟨hsame, hroll, hreport, hperiodT, htime, heg⟩ := startMember_spec u
      have hloader := hsame.loader
      have hcheck := hsame.check
      refine ⟨⟨?_, ?_, ?_, ?_, hsame.ports, hsame.sources, fun i hi => ?_, fun _ => ⟨?_, ?_, ?_⟩,
        fun h1 h2 h3 => hperiodT (hsource.mpr ⟨h1, h2, h3⟩), fun hno => ?_, fun hne => ?_, hroll, hsame.clock, heg,
        fun hno => absurd hm hno, fun _ => ⟨?_, ?_, ?_, ?_⟩⟩, ?_, ?_⟩
      · exact (congrArg Loader.nodeState hloader).trans rfl
      · exact (congrArg Loader.config hloader).trans rfl
      · exact (congrArg Loader.phase hloader).trans rfl
      · exact (congrArg Loader.ownEpoch hloader).trans rfl
      · exact (congrArg (fun v : Vector Slot 32 => (v[i]?).getD {}) hsame.slots).trans (hslot i hi)
      · exact (congrArg RingCheck.number hcheck).trans rfl
      · exact (congrArg RingCheck.period hcheck).trans rfl
      · exact (congrArg ReportUnit.period hreport).trans rfl
      · exact (htime (mt hsource.mp (by tauto))).1
      · rw [hreport]
        show { r with period := reportPeriodTimer u } =
          { (note .nodeState s).report with period := reportPeriodTimer u }
        rw [hr hne]
      · refine hcheck.trans ?_
        rw [hcheck, State.sentLanes, CheckLane.countSent_checkSent, CheckLane.countSent_checkSent]
        rfl
      · intro hd
        exact startMember_of_down hd
      · intro hup hf
        obtain ⟨hegress, hno, hpool, htwice, honce⟩ := startMember_refused (s := u) hup hf
        exact ⟨hegress, hno, hpool, fun h => htwice (hsource.mpr h), fun h => honce (mt hsource.mp h)⟩
      · intro hup hf hwf hroom
        refine ⟨fun hone => ?_, fun h hf hroom => startMember_both (s := u) hup hf hwf hroom (hsource.mpr h)⟩
        obtain ⟨hjoined, hno, hbuffer, honce, hnone⟩ := startMember_check (s := u) hup hf hwf hroom
          (hone.imp (mt hsource.mp) id)
        exact ⟨hjoined, hno, hbuffer, fun h => honce (hsource.mpr h), fun h => hnone (mt hsource.mp h)⟩
      · exact (congrArg Loader.bus hloader).trans rfl
      · exact (congrArg Loader.warnings hloader).trans rfl
    · rw [hstays hm]
      refine ⟨⟨rfl, rfl, rfl, rfl, rfl, rfl, fun i hi => ?_, fun h => absurd h hm,
        fun h => absurd (.inl h) hm, fun _ => rfl, fun hne => ?_, rfl, rfl, fun _ _ => rfl,
        fun _ => ⟨hperiod, rfl, rfl, rfl, rfl⟩, fun h => absurd h hm⟩, rfl, rfl⟩
      · exact hslot i hi
      · show r = { (note .nodeState s).report with period := r.period }
        rw [hr hne]
  refine ⟨rfl, rfl, rfl, rfl, rfl, rfl, fun failed hp => ⟨fun b => ?_, fun f => ⟨fun hf => ?_, fun hf => ?_⟩⟩,
    fun hp => ?_, fun hp => ?_⟩
  · rw [exec_epochReadAttempt hn hp]
    unfold fixed
    rw [← epoch_succ]
    rfl
  · rw [exec_epochReadAttempt hn hp, endEpochRead, if_pos (Nat.succ_lt_succ hf)]
    rfl
  · rw [exec_epochReadAttempt hn hp, endEpochRead, if_neg (Nat.not_lt.mpr (Nat.succ_le_succ hf))]
    rfl
  · refine ⟨?_, rfl, rfl, rfl, rfl, rfl, fun f d hd => ?_⟩
    · rw [exec_epochWrite hn hp]
      rfl
    · obtain ⟨hend, hbus, hwarn⟩ := hends (cutAt f (epochWriteOps s.loader.ownEpoch))
        { s.loader.warnings with epochWrite := true } d hd
      exact ⟨_, exec_epochWrite hn hp (some f), hend, hbus, hwarn⟩
  · refine ⟨?_, exec_epochPollTimeout_of_not, fun d hd => ⟨?_, fun hdue => ?_⟩⟩
    · rw [exec_epochPoll hn hp, ← hp]
      rfl
    · obtain ⟨hend, hbus, hwarn⟩ := hends pollOps s.loader.warnings d hd
      exact ⟨_, exec_epochPoll hn hp true, hend, hwarn, hbus⟩
    · obtain ⟨hend, -, hwarn⟩ := hends [] { s.loader.warnings with epochWrite := true } d hd
      exact ⟨_, exec_epochPollTimeout hn hp hdue, hend, hwarn⟩
end

section
/-! ## What a watch slot keeps (R108, R109, R116 to R119, R121) -/

namespace Sys2Proof.Machine

/-! ### Slots of the table -/

theorem Slot.unused_law : ({} : Slot).Law := ⟨fun _ => rfl, nofun⟩

/-- A table whose slot `n` was replaced. -/
theorem slot_setIfInBounds {n : Nat} (hn : n < 32) (w : Slot) (s : State) (i : Nat) :
    ({ s with slots := s.slots.setIfInBounds n w } : State).slot i = if i = n then w else s.slot i := by
  simp only [State.slot, Vector.getElem?_setIfInBounds, hn, eq_comm (a := n)]
  split <;> rfl

/-- What the loader is about to place has allowances of at least 1. -/
def Loader.PlacesLawful (l : Loader) : Prop :=
  ∀ d, l.draft = some d → ∀ c ∈ d.watch, 1 ≤ c.allowN ∧ 1 ≤ c.allowM

/-- The watch slots' law, read slot by slot: numbers past the table's end read as an unused slot. -/
def State.WatchSafe (s : State) : Prop := (∀ i, (s.slot i).Law) ∧ s.loader.PlacesLawful

theorem watchSafe_iff (s : State) : s.WatchSafe ↔ s.WatchLaw := by
  refine and_congr_left' ⟨fun h w hw => ?_, fun h i => ?_⟩
  · obtain ⟨i, hi, rfl⟩ := List.getElem_of_mem hw
    have hi32 : i < 32 := by simpa using hi
    simpa [State.slot, hi32] using h i
  · unfold State.slot
    by_cases hi : i < 32
    · rw [Vector.getElem?_eq_getElem hi]
      exact h _ (by simp)
    · rw [Vector.getElem?_eq_none (Nat.not_lt.mp hi)]
      exact Slot.unused_law

/-! ### Updates of a slot -/

/-- A lawful slot with any trace of use is in use. -/
theorem Slot.Law.inUse {w : Slot} (h : w.Law) (hne : w ≠ {}) : w.inUse = true := by
  by_contra hno
  exact hne (h.1 (Bool.eq_false_iff.mpr hno))

theorem Slot.Law.step {w v : Slot} (hs : SlotStep w v) (h : w.Law) : v.Law := by
  cases hs with
  | take c n hu => exact Slot.take_law c n h hu
  | stream c hd =>
    have hstatus : w.status = .live ∨ w.status = .late := by
      simp only [Slot.streamDue, Bool.and_eq_true, Bool.or_eq_true, beq_iff_eq] at hd
      exact hd.1
    exact Slot.streamExpires_law h (h.inUse (by rintro rfl; simp at hstatus)) hstatus
  | lane c x hd =>
    simp only [Slot.laneDue, Bool.and_eq_true, bne_iff_ne] at hd
    obtain ⟨hstatus, hdue⟩ := hd
    exact Slot.laneExpires_law x h (h.inUse (by rintro rfl; cases x <;> exact absurd hdue nofun)) hstatus
  | lose _ hd => exact Slot.lose_law h (h.inUse (by rintro rfl; exact absurd hd nofun))

/-- ZERO's update of a slot keeps its law: no part of it is about a counter (R128). -/
theorem Slot.Law.zeroed {w : Slot} (h : w.Law) : w.zeroed.Law :=
  ⟨fun hu => by rw [h.1 hu]; rfl, h.2⟩

/-- A slot is placed lawfully: AWAIT, its deadline alone running (R108, R118). -/
theorem placedSlot_law (c : Clock) (running : Bool) {w : WatchConfig} (hn : 1 ≤ w.allowN) (hm : 1 ≤ w.allowM) :
    (placedSlot c running w).Law := by
  have hlane : SlotLane.Law w.allowM {} := ⟨nofun, fun _ => by simpa using hm⟩
  exact ⟨nofun, fun _ => ⟨hn, hm, fun _ => ⟨rfl, rfl⟩, nofun, nofun, nofun, fun _ => rfl, hlane, hlane⟩⟩

/-! ### The loader's part -/

theorem Loader.PlacesLawful.decided {l m : Loader} (h : Decided l m) : m.PlacesLawful := by
  intro d hd c hc
  have hlaw : d.Law := by
    cases h with
    | good => exact goodDraft_law hd
    | bad => exact badDraft_law hd
  obtain ⟨-, -, hwatch, -⟩ := hlaw
  obtain ⟨-, -, hn, -, hm, -⟩ := hwatch c hc
  exact ⟨hn, hm⟩

theorem State.WatchSafe.fixConfiguration {s : State} {d : Draft} (h : s.loader.PlacesLawful)
    (hd : s.loader.draft = some d) : (fixConfiguration d s).WatchSafe := by
  refine ⟨fun i => ?_, nofun⟩
  by_cases hi : i < 32
  · show ((watchTable s.clock (d.next == .running) d.watch)[i]?.getD {}).Law
    rw [slot_watchTable _ _ _ hi]
    split
    · rename_i w hw
      obtain ⟨hn, hm⟩ := h d hd w (List.mem_of_getElem? hw)
      exact placedSlot_law _ _ hn hm
    · exact Slot.unused_law
  · rw [State.slot, Vector.getElem?_eq_none (Nat.not_lt.mp hi)]
    exact Slot.unused_law

theorem State.WatchSafe.start (s : State) (c : StartCause) : (takeStart c s).WatchSafe := by
  obtain ⟨-, -, -, -, -, -, -, -, -, -, -, hslots, -, -, -, -, -, hdraft, -⟩ := takeStart_started c s
  refine ⟨fun i => ?_, fun d hd => absurd (hdraft.symm.trans hd) nofun⟩
  rw [State.slot, hslots, Vector.getElem?_replicate]
  split <;> exact Slot.unused_law

/-- The updates that commands are made of keep every slot's law. -/
theorem watchSafe_kept : Kept State.WatchSafe where
  slot := fun s n w hn hs h => by
    refine ⟨fun i => ?_, h.2⟩
    rw [slot_setIfInBounds hn]
    split
    · exact (h.1 n).step hs
    · exact h.1 i
  startRepeat := fun s out h => by
    unfold startRepeat
    split
    · exact h
    · split <;> exact h
  repeatDone := by intros; assumption
  repeatTake := by intros; assumption
  giant := fun s p h => by rw [dropReception_eq]; exact h
  endError := fun s p o _ h => by rw [dropReception_eq]; exact h
  endIntact := by intros; assumption
  repeatLoses := by intros; assumption
  repeatJoins := by intros; assumption
  fallen := fun s p _ h => by rw [fallen_eq]; exact h
  zero := fun s h => ⟨fun i => by rw [slot_zeroCounters]; exact (h.1 i).zeroed, h.2⟩
  start := fun s c _ => .start s c
  enter := by intros; assumption
  begins := by intros; assumption
  retry := by intros; assumption
  decides := fun s l d _ hl _ h => ⟨h.1, (Loader.PlacesLawful.decided hl :)⟩
  transit := fun s l d _ hl hd _ => .fixConfiguration (.decided hl) hd
  fix := fun s d _ hd h => .fixConfiguration h.2 hd

/-- A lane's miss count stops at M, where the lane is DOWN (R117). -/
theorem SlotLane.Law.miss_le {m : Nat} {l : SlotLane} (h : l.Law m) : l.miss ≤ m := by
  by_cases hd : l.status = .down
  · exact (h.1 hd).1.le
  · exact Nat.le_of_succ_le (h.2 hd)

/-- The stream's miss count is 0, below N in LATE, or N in LOST (R116, R121). -/
theorem Slot.Law.miss_le {w : Slot} (h : w.Law) (hu : w.inUse = true) : w.miss ≤ w.config.allowN := by
  obtain ⟨-, -, hawait, hlive, hlate, hlost, -⟩ := h.2 hu
  cases hs : w.status with
  | await => simp [(hawait hs).1]
  | live => simp [(hlive hs).1]
  | late => exact Nat.le_of_succ_le (hlate hs).2.1
  | lost => exact (hlost hs).1.le

end Sys2Proof.Machine

open Sys2Proof Sys2Proof.Machine

/-- Settles O40: the slots' law is an invariant of the updates that commands are made of, and bounds every count. -/
theorem missCountsStayWithinTheirAllowances : Obligations.MissCountsStayWithinTheirAllowances := by
  intro s t h hstep
  obtain ⟨u, hu, hsafe⟩ := watchSafe_kept.step (fun _ _ h => h) (fun _ h => h) ((watchSafe_iff s).mpr h)
  rw [hstep] at hu
  cases hu
  have hlaw : t.WatchLaw := (watchSafe_iff t).mp hsafe
  refine ⟨hlaw, fun w hw huse => ?_⟩
  obtain ⟨-, -, -, -, -, -, -, he, hwest⟩ := (hlaw.1 w hw).2 huse
  exact ⟨(hlaw.1 w hw).miss_le huse, he.miss_le, hwest.miss_le⟩
end

section
/-! ## The expiries of a watch slot's timers (R116 to R119, R125) -/

namespace Sys2Proof.Machine

/-! ### A slot replaced (R125) -/

section Replaced
variable {n : Nat} {v : Slot} {s : State}

/-- Every status stays, so the slot is replaced and not noted. -/
theorem updateSlot_of_same (hs : v.status = (s.slot n).status)
    (hl : ∀ x, (v.lanes.get x).status = ((s.slot n).lanes.get x).status) :
    updateSlot n v s = { s with slots := s.slots.setIfInBounds n v } := by
  have he : v.lanes.e.status = (s.slot n).lanes.e.status := hl .e
  have hw : v.lanes.w.status = (s.slot n).lanes.w.status := hl .w
  simp [updateSlot, Slot.statusDiffers, noteIf, hs, he, hw]

theorem updateSlot_of_stream (hs : v.status ≠ (s.slot n).status) :
    updateSlot n v s = note (.slot n) { s with slots := s.slots.setIfInBounds n v } := by
  simp [updateSlot, Slot.statusDiffers, noteIf, hs.symm]

theorem updateSlot_of_lane (x : Lane) (hl : (v.lanes.get x).status ≠ ((s.slot n).lanes.get x).status) :
    updateSlot n v s = note (.slot n) { s with slots := s.slots.setIfInBounds n v } := by
  have hdiffers : (s.slot n).statusDiffers v = true := by
    cases x with
    | e => simp [Slot.statusDiffers, show (s.slot n).lanes.e.status ≠ v.lanes.e.status from hl.symm]
    | w => simp [Slot.statusDiffers, show (s.slot n).lanes.w.status ≠ v.lanes.w.status from hl.symm]
  rw [updateSlot, noteIf, hdiffers, if_pos rfl]

end Replaced

/-! ### The miss of a stream or lane -/

section Misses
variable {w : Slot}

/-- A miss below N of a LIVE stream (R116). -/
theorem Slot.streamExpires_live (hs : w.status = .live) (hn : w.miss + 1 < w.config.allowN) :
    w.streamExpires =
      { w with status := .late, miss := w.miss + 1, timer := rearmed w.timer w.interval, late := raise w.late } := by
  rw [streamExpires, if_pos hn, if_pos hs]

/-- A miss below N of a LATE stream (R116). -/
theorem Slot.streamExpires_late (hs : w.status = .late) (hn : w.miss + 1 < w.config.allowN) :
    w.streamExpires = { w with miss := w.miss + 1, timer := rearmed w.timer w.interval } := by
  rw [streamExpires, if_pos hn, if_neg (by simp [hs]), ← hs]

theorem Slot.streamExpires_lost (hn : w.config.allowN ≤ w.miss + 1) : w.streamExpires = w.lose :=
  if_neg (Nat.not_lt.mpr hn)

/-- A lane's miss below M (R117). -/
theorem Slot.laneExpires_counts {x : Lane} (hm : (w.lanes.get x).miss + 1 < w.config.allowM) :
    w.laneExpires x = { w with
      lanes := w.lanes.set x { w.lanes.get x with
        miss := (w.lanes.get x).miss + 1, timer := rearmed (w.lanes.get x).timer w.interval } } :=
  if_pos hm

/-- The miss that makes a lane's count M (R117). -/
theorem Slot.laneExpires_down {x : Lane} (hm : w.config.allowM ≤ (w.lanes.get x).miss + 1) :
    w.laneExpires x = { w with
      lanes := w.lanes.set x { w.lanes.get x with status := .down, miss := w.config.allowM, timer := none }
      laneDown := raise w.laneDown } :=
  if_neg (Nat.not_lt.mpr hm)

end Misses

/-! ### The commands -/

section Expiries
variable {i : Nat} {s : State}

theorem exec_streamTimerExpiry (hi : i < 32) (hs : (s.slot i).status = .live ∨ (s.slot i).status = .late)
    (hd : s.clock.due (s.slot i).timer = true) :
    exec (.streamTimerExpiry i) s = .next (settle (updateSlot i (s.slot i).streamExpires s)) := by
  have hdue : (s.slot i).streamDue s.clock = true := by simp [Slot.streamDue, hs, hd]
  simp only [exec, execStreamTimerExpiry, finish, if_pos (And.intro hi hdue)]

theorem exec_streamTimerExpiry_of_not
    (h : ((s.slot i).status ≠ .live ∧ (s.slot i).status ≠ .late) ∨ s.clock.due (s.slot i).timer = false) :
    exec (.streamTimerExpiry i) s = .next (settle s) := by
  have hno : ¬ (i < 32 ∧ (s.slot i).streamDue s.clock = true) := by
    rintro ⟨-, hdue⟩
    simp only [Slot.streamDue, Bool.and_eq_true, Bool.or_eq_true, beq_iff_eq] at hdue
    obtain ⟨hs, hd⟩ := hdue
    obtain ⟨hlive, hlate⟩ | hnd := h
    · exact hs.elim hlive hlate
    · simp [hd] at hnd
  simp only [exec, execStreamTimerExpiry, finish, if_neg hno]

theorem exec_startDeadlineExpiry (hi : i < 32) (hs : (s.slot i).status = .await)
    (hd : s.clock.due (s.slot i).deadline = true) :
    exec (.startDeadlineExpiry i) s = .next (settle (updateSlot i (s.slot i).lose s)) := by
  simp only [exec, execStartDeadlineExpiry, finish, if_pos (And.intro hi (And.intro hs hd))]

theorem exec_startDeadlineExpiry_of_not
    (h : (s.slot i).status ≠ .await ∨ s.clock.due (s.slot i).deadline = false) :
    exec (.startDeadlineExpiry i) s = .next (settle s) := by
  have hno : ¬ (i < 32 ∧ (s.slot i).status = .await ∧ s.clock.due (s.slot i).deadline = true) := by
    rintro ⟨-, hs, hd⟩
    simp [hs, hd] at h
  simp only [exec, execStartDeadlineExpiry, finish, if_neg hno]

theorem exec_laneTimerExpiry {x : Lane} (hi : i < 32) (hs : ((s.slot i).lanes.get x).status ≠ .down)
    (hd : s.clock.due ((s.slot i).lanes.get x).timer = true) :
    exec (.laneTimerExpiry i x) s = .next (settle (updateSlot i ((s.slot i).laneExpires x) s)) := by
  have hdue : (s.slot i).laneDue s.clock x = true := by simp [Slot.laneDue, hs, hd]
  simp only [exec, execLaneTimerExpiry, finish, if_pos (And.intro hi hdue)]

theorem exec_laneTimerExpiry_of_not {x : Lane}
    (h : ((s.slot i).lanes.get x).status = .down ∨ s.clock.due ((s.slot i).lanes.get x).timer = false) :
    exec (.laneTimerExpiry i x) s = .next (settle s) := by
  have hno : ¬ (i < 32 ∧ (s.slot i).laneDue s.clock x = true) := by
    rintro ⟨-, hdue⟩
    simp only [Slot.laneDue, Bool.and_eq_true, bne_iff_ne] at hdue
    obtain ⟨hs, hd⟩ := hdue
    simp [hs, hd] at h
  simp only [exec, execLaneTimerExpiry, finish, if_neg hno]

end Expiries

end Sys2Proof.Machine

open Sys2Proof Sys2Proof.Machine

/-- Settles O41: each command by the slot that its miss leaves, and by whether a status changed in it. -/
theorem slotTimersExpire : Obligations.SlotTimersExpire := by
  intro i s hi w put next down lost
  have hlost (hs : w.status ≠ .lost) : updateSlot i w.lose s = note (.slot i) (put lost) :=
    updateSlot_of_stream (v := w.lose) (Ne.symm hs)
  refine ⟨fun hs hd hn => ?_, fun hs hd hn => ?_, fun hs hd hn => ?_, exec_streamTimerExpiry_of_not, fun hs hd => ?_,
    exec_startDeadlineExpiry_of_not, fun x => ?_⟩
  · rw [exec_streamTimerExpiry hi (.inl hs) hd, Slot.streamExpires_live hs hn,
      updateSlot_of_stream (show StreamStatus.late ≠ w.status by rw [hs]; nofun)]
    rfl
  · have hput : updateSlot i { w with miss := w.miss + 1, timer := next w.timer } s = put _ :=
      updateSlot_of_same rfl fun _ => rfl
    rw [exec_streamTimerExpiry hi (.inr hs) hd, Slot.streamExpires_late hs hn, ← hput]
    rfl
  · rw [exec_streamTimerExpiry hi hs hd, Slot.streamExpires_lost hn, hlost (by rintro h; simp [h] at hs)]
  · rw [exec_startDeadlineExpiry hi hs hd, hlost (by rw [hs]; nofun)]
  · intro l
    refine ⟨fun hs hd hm => ?_, fun hs hd hm => ?_, exec_laneTimerExpiry_of_not⟩
    · have hput : updateSlot i
          { w with lanes := w.lanes.set x { l with miss := l.miss + 1, timer := next l.timer } } s = put _ :=
        updateSlot_of_same rfl fun y => by by_cases hy : y = x <;> simp [hy, w, l]
      rw [exec_laneTimerExpiry hi hs hd, Slot.laneExpires_counts hm, ← hput]
      rfl
    · rw [exec_laneTimerExpiry hi hs hd, Slot.laneExpires_down hm, updateSlot_of_lane x (by simpa using Ne.symm hs)]
end

section
/-! ## What a copy does to its watch slot (R110 to R115) -/

namespace Sys2Proof.Machine

/-! ### A copy taken (R112 to R115) -/

section Taken
variable (c : Clock) (n : CopyNotice) (w : Slot)

theorem Slot.laneArrives_lane (x y : Lane) : (w.laneArrives c x).lanes.get y =
    if y = x then { w.lanes.get x with status := .up, miss := 0, timer := some (w.timerFrom c) }
    else w.lanes.get y := PerLane.get_set ..

theorem Slot.superviseLane_lane (x y : Lane) : (w.superviseLane c x).lanes.get y =
    if y = x ∧ (w.lanes.get x).status = .await then
      { w.lanes.get x with miss := 0, timer := some (w.timerFrom c) }
    else w.lanes.get y := by
  unfold superviseLane
  split
  case isTrue h => simp [h]
  case isFalse h => simp [h]

theorem Slot.recordCopy_lane (y : Lane) : (w.recordCopy n).lanes.get y =
    if y = n.lane then { w.lanes.get n.lane with record := some ⟨n.seq, n.arrival⟩ } else w.lanes.get y :=
  PerLane.get_set ..

@[simp] theorem Slot.streamFirst_lanes : (w.streamFirst c).lanes = w.lanes := rfl

@[simp] theorem Slot.streamFirst_timerFrom : (w.streamFirst c).timerFrom c = w.timerFrom c := rfl

@[simp] theorem Slot.laneArrives_timerFrom (x : Lane) : (w.laneArrives c x).timerFrom c = w.timerFrom c := rfl

/-- A FIRST copy makes the stream LIVE, so its lane arrives; at the first appearance the other lane is supervised. -/
theorem Slot.take_of_first {n : CopyNotice} (h : n.first = true) : w.take c n =
    (if w.status = .await then ((w.streamFirst c).laneArrives c n.lane).superviseLane c n.lane.other
      else (w.streamFirst c).laneArrives c n.lane).recordCopy n := by
  simp [take, h, streamFirst]

/-- Another copy leaves the stream, and its lane arrives unless the stream is LOST. -/
theorem Slot.take_of_not_first {n : CopyNotice} (h : n.first = false) : w.take c n =
    (if w.status = .lost then w else w.laneArrives c n.lane).recordCopy n := by
  simp [take, h]

/-- The stream of a slot that took a copy, and its counters (R112, R113). -/
theorem Slot.take_eq : w.take c n =
    { (if n.first then w.streamFirst c else w) with
      arrivals := raise w.arrivals, lanes := (w.take c n).lanes } := by
  cases h : n.first
  case false =>
    rw [take_of_not_first c w h]
    split <;> rfl
  case true =>
    rw [take_of_first c w h, superviseLane]
    split
    · split <;> rfl
    · rfl

/-- The copy's lane is recorded, and becomes UP unless the stream is LOST (R112, R114). -/
theorem Slot.take_lane : (w.take c n).lanes.get n.lane =
    { (if n.first = true ∨ w.status ≠ .lost then
        { w.lanes.get n.lane with status := .up, miss := 0, timer := some (w.timerFrom c) }
      else w.lanes.get n.lane) with record := some ⟨n.seq, n.arrival⟩ } := by
  have hne : n.lane ≠ n.lane.other := (Lane.other_ne n.lane).symm
  cases h : n.first
  case false =>
    rw [take_of_not_first c w h, recordCopy_lane, if_pos rfl]
    by_cases hl : w.status = .lost <;> simp [hl, laneArrives_lane]
  case true =>
    rw [take_of_first c w h, recordCopy_lane, if_pos rfl]
    by_cases ha : w.status = .await <;> simp [ha, hne, superviseLane_lane, laneArrives_lane]

/-- The other lane is left, but for the start of its timer at the stream's first appearance (R115). -/
theorem Slot.take_otherLane : (w.take c n).lanes.get n.lane.other =
    if n.first = true ∧ w.status = .await ∧ (w.lanes.get n.lane.other).status = .await then
      { w.lanes.get n.lane.other with miss := 0, timer := some (w.timerFrom c) }
    else w.lanes.get n.lane.other := by
  have hne : n.lane.other ≠ n.lane := Lane.other_ne n.lane
  cases h : n.first
  case false =>
    rw [take_of_not_first c w h, recordCopy_lane, if_neg hne]
    by_cases hl : w.status = .lost <;> simp [hl, hne, laneArrives_lane]
  case true =>
    rw [take_of_first c w h, recordCopy_lane, if_neg hne]
    by_cases ha : w.status = .await <;> simp [ha, hne, superviseLane_lane, laneArrives_lane]

end Taken

/-! ### The table (R110) -/

section Table
variable {n : CopyNotice} {s t : State}

theorem updateSlot_slots (i : Nat) (w : Slot) (s : State) :
    (updateSlot i w s).slots = s.slots.setIfInBounds i w :=
  (SameBut.noteIf ..).slots

theorem tellStreamWatch_slots (n : CopyNotice) (s : State) : (tellStreamWatch n s).slots =
    match s.matchingSlot n with
    | none => s.slots
    | some i => s.slots.setIfInBounds i ((s.slot i).take s.clock n) := by
  unfold tellStreamWatch
  cases s.matchingSlot n with
  | none => rfl
  | some i => exact updateSlot_slots ..

/-- Stream watch reads the slots and the clock alone. -/
theorem tellStreamWatch_slots_congr (hs : t.slots = s.slots) (hc : t.clock = s.clock) (n : CopyNotice) :
    (tellStreamWatch n t).slots = (tellStreamWatch n s).slots := by
  simp only [tellStreamWatch_slots, State.matchingSlot, State.slot, hs, hc]

theorem tellStreamWatch_slots_of_none (h : ∀ w ∈ s.slots.toList, w.covers n = false) :
    (tellStreamWatch n s).slots = s.slots := by
  have hnone : s.matchingSlot n = none := List.findIdx?_eq_none_iff.mpr h
  rw [tellStreamWatch_slots, hnone]

theorem tellStreamWatch_slots_of_first {i : Nat} (hi : i < 32) (hbelow : ∀ k < i, (s.slot k).covers n = false)
    (h : (s.slot i).covers n = true) :
    (tellStreamWatch n s).slots = s.slots.setIfInBounds i ((s.slot i).take s.clock n) := by
  have hslot (k : Nat) (hk : k < 32) : s.slot k = s.slots[k] := by simp [State.slot, hk]
  have hsome : s.matchingSlot n = some i := by
    refine List.findIdx?_eq_some_iff_getElem.mpr ⟨by simpa using hi, ?_, fun k hk => ?_⟩
    · simpa [hslot i hi] using h
    · simpa [hslot k (hk.trans hi)] using hbelow k hk
  rw [tellStreamWatch_slots, hsome]

end Table

/-! ### The copy that the ring filter tells of (R44) -/

/-- What the ring filter tells stream watch of a DATA copy. -/
def copyNotice (h : Handed) (b : Buffer) (first : Bool) : CopyNotice :=
  ⟨first, b.trailer.source, b.trailer.seq, b.trailer.lane, classOfField b.trailer.cls, appidField b.body, h.arrival⟩

theorem toldCopy_slots (h : Handed) (b : Buffer) (first : Bool) (s : State) :
    (toldCopy h b first s).slots = (tellStreamWatch (copyNotice h b first) s).slots := by
  obtain ⟨report, hr⟩ := requestVerdict_eq b.trailer h.arrival s
  exact tellStreamWatch_slots_congr (by rw [hr]) (by rw [hr]) _

/-- Stream watch hears of FIRST and DUPLICATE copies, and of no other (R44). -/
theorem dataTaken_slots (p : RingPort) {h : Handed} {b : Buffer} {s : State} {v : Verdict}
    (hv : (judged b.trailer h.arrival s).verdict = v) : (dataTaken p h b s).slots =
      if v = .first ∨ v = .duplicate then (tellStreamWatch (copyNotice h b (v == .first)) s).slots else s.slots := by
  obtain ⟨report, hr⟩ := requestVerdict_eq b.trailer h.arrival s
  have hrequest : (requestVerdict b.trailer h.arrival s).2.slots = s.slots := by rw [hr]
  rw [dataTaken, hv]
  cases v with
  | first =>
    have hdelivered := (deliver_rest p h.buf (classOfField b.trailer.cls) b.body (toldCopy h b true s)).1.slots
    exact hdelivered.trans (toldCopy_slots ..)
  | duplicate => exact toldCopy_slots ..
  | repeated => exact hrequest
  | stale => exact hrequest

/-- A peer DATA copy's effect on the watch slots is what stream watch makes of its verdict (R44). -/
theorem filterFrame_peerData_slots {p : RingPort} {h : Handed} {s : State} {v : Verdict}
    (hk : ringKind (s.buffer h.buf) = some .data) (hsrc : (s.buffer h.buf).trailer.source ≠ s.node)
    (hfree : (classOfField (s.buffer h.buf).trailer.cls).threshold ≤ s.free)
    (hv : (judged (s.buffer h.buf).trailer h.arrival s).verdict = v) : (filterFrame p h s).slots =
      if v = .first ∨ v = .duplicate then
        (tellStreamWatch (copyNotice h (s.buffer h.buf) (v == .first)) s).slots
      else s.slots := by
  rw [filterFrame_peerData hk hsrc hfree]
  generalize s.buffer h.buf = b at *
  have hmarked : (marked p .data b (isExpired b.trailer s) s).slots = s.slots ∧
      (marked p .data b (isExpired b.trailer s) s).clock = s.clock := by
    obtain ⟨ports, report, he⟩ := marked_eq p .data b (isExpired b.trailer s) s
    rw [he]
    exact ⟨rfl, rfl⟩
  have htaken := dataTaken_slots p (s := marked p .data b (isExpired b.trailer s) s) ((judged_marked ..).symm ▸ hv)
  rw [tellStreamWatch_slots_congr hmarked.1 hmarked.2, hmarked.1] at htaken
  exact (sendOn_rest ..).1.slots.trans htaken

end Sys2Proof.Machine

open Sys2Proof Sys2Proof.Machine

/-- Settles O42: the ring filter's effect on the table is stream watch's, which replaces the first matching slot by what
`Slot.take` makes of it. -/
theorem copiesReviveTheirSlot : Obligations.CopiesReviveTheirSlot := by
  intro p h rest s hm hh b tr c verdict seen hk hsrc hfree
  let u : State := { s with handed := s.handed.set p rest }
  let n := copyNotice h b (verdict == .first)
  have hslots : (filterFrame p h u).slots =
      if verdict = .first ∨ verdict = .duplicate then (tellStreamWatch n u).slots else s.slots :=
    filterFrame_peerData_slots (s := u) hk hsrc hfree rfl
  refine ⟨filterFrame p h u, exec_ringFilter hm hh, fun hno => hslots.trans ?_, fun i hi hbelow hseen hv => ?_⟩
  · split
    case isTrue hv =>
      have hnone : ∀ w ∈ s.slots.toList, seen w = false := by
        obtain hno | hno | hno := hno
        · simp [hno] at hv
        · simp [hno] at hv
        · exact hno
      exact tellStreamWatch_slots_of_none (s := u) hnone
    case isFalse => rfl
  · intro w fresh
    have htold : (tellStreamWatch n u).slots = s.slots.setIfInBounds i (w.take s.clock n) :=
      tellStreamWatch_slots_of_first (s := u) hi hbelow hseen
    have hlane : (w.take s.clock n).lanes.get tr.lane = _ := w.take_lane s.clock n
    have hother : (w.take s.clock n).lanes.get tr.lane.other = _ := w.take_otherLane s.clock n
    refine ⟨w.take s.clock n, hslots.trans ((if_pos hv).trans htold), ?_⟩
    rw [w.take_eq s.clock n]
    generalize (w.take s.clock n).lanes = l at *
    obtain hv | hv := hv
    · have hn : n.first = true := beq_iff_eq.mpr hv
      have hnot : verdict ≠ .duplicate := by rw [hv]; nofun
      have hsame : (l.get tr.lane.other).record = (w.lanes.get tr.lane.other).record ∧
          (l.get tr.lane.other).status = (w.lanes.get tr.lane.other).status := by
        rw [hother]
        split <;> exact ⟨rfl, rfl⟩
      rw [if_pos (.inl hn)] at hlane
      rw [if_pos hn]
      refine ⟨rfl, rfl, rfl, rfl, rfl, rfl, congrArg SlotLane.record hlane, hsame.1,
        fun _ => ⟨rfl, rfl, rfl, fun ha => if_pos ha⟩, fun hd => absurd hd hnot, fun _ => ?_,
        fun hd => absurd hd hnot, hsame.2, fun _ ha hl => ?_, fun hno => hother.trans (if_neg ?_)⟩
      · exact ⟨congrArg SlotLane.status hlane, congrArg SlotLane.miss hlane, congrArg SlotLane.timer hlane⟩
      · rw [if_pos ⟨hn, ha, hl⟩] at hother
        exact ⟨congrArg SlotLane.miss hother, congrArg SlotLane.timer hother⟩
      · rintro ⟨-, ha, hl⟩
        exact hno.elim hnot (·.elim (· ha) (· hl))
    · have hn : n.first ≠ true := beq_iff_eq.not.mpr (by rw [hv]; nofun)
      have hnot : verdict ≠ .first := by rw [hv]; nofun
      have hsame : l.get tr.lane.other = w.lanes.get tr.lane.other := hother.trans (if_neg fun h => hn h.1)
      rw [if_neg hn]
      refine ⟨rfl, rfl, rfl, rfl, rfl, rfl, congrArg SlotLane.record hlane, congrArg SlotLane.record hsame,
        fun hf => absurd hf hnot, fun _ => ⟨rfl, rfl, rfl, rfl⟩, fun hup => ?_, fun _ hl => ?_,
        congrArg SlotLane.status hsame, fun hf => absurd hf hnot, fun _ => hsame⟩
      · rw [if_pos (.inr (hup.resolve_left hnot))] at hlane
        exact ⟨congrArg SlotLane.status hlane, congrArg SlotLane.miss hlane, congrArg SlotLane.timer hlane⟩
      · rw [if_neg (by simp [hn, hl])] at hlane
        rw [hlane]
        exact ⟨rfl, rfl, rfl⟩
end

section
/-! ## What a good image gives, field by field (R173 to R176, R197) -/

namespace Sys2Proof.Machine

/-! ### Bytes and fields of an image -/

theorem byteAt_le (bs : List Byte) (i : Nat) : (byteAt bs i).toNat ≤ 255 := Nat.le_of_lt_succ (byteAt bs i).isLt

theorem beNat_cons (b : Byte) (bs : List Byte) : beNat (b :: bs) = b.toNat * 256 ^ bs.length + beNat bs := by
  have key : ∀ (bs : List Byte) (a : Nat),
      bs.foldl (fun a b => 256 * a + b.toNat) a = a * 256 ^ bs.length + beNat bs := by
    intro bs
    induction bs with
    | nil => intro a; simp [beNat]
    | cons c bs ih =>
      intro a
      have hhead : beNat (c :: bs) = (256 * 0 + c.toNat) * 256 ^ bs.length + beNat bs := ih _
      rw [List.foldl_cons, ih, hhead, List.length_cons]
      ring
  simpa [beNat] using key bs b.toNat

theorem beNat_lt (bs : List Byte) : beNat bs < 256 ^ bs.length := by
  induction bs with
  | nil => exact Nat.one_pos
  | cons b bs ih =>
    have hb : b.toNat ≤ 255 := Nat.le_of_lt_succ b.isLt
    have hmul : b.toNat * 256 ^ bs.length ≤ 255 * 256 ^ bs.length := Nat.mul_le_mul_right _ hb
    rw [beNat_cons, List.length_cons, pow_succ]
    omega

theorem fieldAt_lt (bs : List Byte) (i n : Nat) : fieldAt bs i n < 256 ^ n :=
  (beNat_lt _).trans_le (Nat.pow_le_pow_right (by decide) (List.length_take_le ..))

/-- A field is its first byte before the field of the rest. -/
theorem fieldAt_succ {bs : List Byte} {i n : Nat} (h : i + n < bs.length) :
    fieldAt bs i (n + 1) = (byteAt bs i).toNat * 256 ^ n + fieldAt bs (i + 1) n := by
  have hi : i < bs.length := Nat.lt_of_le_of_lt (Nat.le_add_right ..) h
  have hlen : ((bs.drop (i + 1)).take n).length = n := by
    rw [List.length_take, List.length_drop]
    omega
  rw [fieldAt, List.drop_eq_getElem_cons hi, List.take_succ_cons, beNat_cons, hlen, byteAt, List.getD_eq_getElem _ _ hi,
    fieldAt]

theorem getLsbD_eq_decide {w : Nat} (x : BitVec w) (i : Nat) : x.getLsbD i = decide (x.toNat / 2 ^ i % 2 = 1) :=
  Nat.testBit_eq_decide_div_mod_eq

/-- The lowest bit of a stored address's first byte names a group (R174). -/
theorem isGroup_fieldAt {image : List Byte} (h : 31 ≤ image.length) :
    isGroup (BitVec.ofNat 48 (fieldAt image 25 6)) = decide ((byteAt image 25).toNat % 2 = 1) := by
  have hrest : fieldAt image 26 5 < 256 ^ 5 := fieldAt_lt ..
  have hbyte := byteAt_le image 25
  have hdiv : ((byteAt image 25).toNat * 256 ^ 5 + fieldAt image 26 5) % 2 ^ 48 / 2 ^ 40 = (byteAt image 25).toNat := by
    omega
  rw [isGroup, getLsbD_eq_decide, BitVec.toNat_ofNat, fieldAt_succ h, hdiv]

theorem headerFault_ne_good (header : List Byte) : headerFault header ≠ some .good := by
  unfold headerFault
  (repeat' split) <;> nofun

theorem bodyFault_ne_good (image : List Byte) : bodyFault image ≠ some .good := by
  unfold bodyFault
  dsimp only
  (repeat' split) <;> nofun

theorem length_of_bodyFault {image : List Byte} (h : bodyFault image = none) : 44 ≤ image.length := by
  unfold bodyFault at h
  dsimp only at h
  split at h
  · cases h
  · split at h
    · cases h
    · omega

/-- A good image holds at least its fixed part (R172). -/
theorem length_of_attemptResult {read : ImageRead} {image : List Byte} (h : attemptResult read = (.good, image)) :
    44 ≤ image.length := by
  cases read with
  | failed f => cases h
  | bytes given =>
    simp only [attemptResult] at h
    split at h
    next r hr =>
      obtain ⟨rfl, -⟩ := Prod.mk.inj h
      exact absurd hr (headerFault_ne_good _)
    next =>
      split at h
      next r hr =>
        obtain ⟨rfl, -⟩ := Prod.mk.inj h
        exact absurd hr (bodyFault_ne_good _)
      next hnone =>
        cases h
        exact length_of_bodyFault hnone

/-! ### Clamps and overrides (R173, R174) -/

/-- The value of a range nearest to `x`. -/
def nearest (lo hi x : Nat) : Nat := max lo (min hi x)

/-- 1 for a value outside a range, which is replaced, and 0 for one inside. -/
def outside (lo hi x : Nat) : Nat := if lo ≤ x ∧ x ≤ hi then 0 else 1

theorem clampTo_eq {lo hi : Nat} (h : lo ≤ hi) (x : Nat) : clampTo lo hi x = (nearest lo hi x, outside lo hi x) := by
  unfold clampTo nearest outside
  by_cases hlo : x < lo
  · rw [if_pos hlo, if_neg (by omega), Prod.mk.injEq]
    omega
  · by_cases hhi : hi < x
    · rw [if_neg hlo, if_pos hhi, if_neg (by omega), Prod.mk.injEq]
      omega
    · rw [if_neg hlo, if_neg hhi, if_pos (by omega), Prod.mk.injEq]
      omega

theorem overridden_eq {lo hi : Nat} (h : lo ≤ hi) (present : Bool) (x own : Nat) :
    overridden present lo hi x own =
      (if present then nearest lo hi x else own, if present then outside lo hi x else 0) := by
  rw [overridden, clampTo_eq h]
  cases present <;> rfl

/-- A value that fills its range is never replaced. -/
theorem overridden_never_clamps {hi x : Nat} (h : x ≤ hi) (present : Bool) (own : Nat) :
    (overridden present 0 hi x own).2 = 0 := by
  have hin : outside 0 hi x = 0 := if_pos ⟨Nat.zero_le x, h⟩
  rw [overridden_eq (Nat.zero_le hi)]
  simp [hin]

/-- The columns of the four profiles (R173). -/
def profileColumns : List Profile := [⟨10, 3, 50, 8, 20, 10, 62, 10, 0, 0⟩, ⟨2, 3, 10, 4, 5, 2, 62, 10, 0, 0⟩,
  ⟨50, 4, 200, 16, 100, 50, 62, 10, 0, 0⟩, ⟨5, 3, 30, 8, 10, 5, 16, 10, 0, 0⟩]

theorem profileOf_ofNat {n : Nat} (h : n ≤ 3) : profileOf (BitVec.ofNat 2 n) = profileColumns.getD n {} := by
  interval_cases n <;> rfl

theorem imageProfile_settings (image : List Byte) (flags : BitVec 10) (p : Profile) :
    let b (i : Nat) : Nat := (byteAt image i).toNat
    let setting (i lo hi x own : Nat) : Nat := if flags.getLsbD i then nearest lo hi x else own
    (imageProfile image flags p).1 =
      ⟨setting 0 1 255 (b 10) p.checkPeriod, setting 1 1 15 (b 11) p.missLimit, setting 2 1 255 (b 12) p.aging,
        setting 3 2 255 (b 13) p.streakLimit, setting 4 1 255 (b 14) p.rollTimeout,
        setting 5 1 255 (b 15) p.scanWindow, setting 6 1 63 (b 16) p.hopLimit, setting 7 0 255 (b 17) p.errorBound,
        setting 8 0 65535 (fieldAt image 18 2) p.goodFloor, setting 9 0 255 (b 20) p.streamAge⟩ := by
  simp [imageProfile, overridden_eq]

theorem imageProfile_clamps (image : List Byte) (flags : BitVec 10) (p : Profile) :
    let b (i : Nat) : Nat := (byteAt image i).toNat
    let missed (i lo hi x : Nat) : Nat := if flags.getLsbD i then outside lo hi x else 0
    (imageProfile image flags p).2 =
      missed 0 1 255 (b 10) + missed 1 1 15 (b 11) + missed 2 1 255 (b 12) + missed 3 2 255 (b 13) +
        missed 4 1 255 (b 14) + missed 5 1 255 (b 15) + missed 6 1 63 (b 16) := by
  have hfloor : fieldAt image 18 2 ≤ 65535 := Nat.le_of_lt_succ (fieldAt_lt image 18 2)
  simp only [imageProfile, overridden_never_clamps (byteAt_le image _), overridden_never_clamps hfloor]
  simp [overridden_eq]

/-! ### Entries of the tables (R174, R197) -/

theorem nearest_bit (x : Nat) : (nearest 0 1 x == 1) = (x != 0) := by
  rw [Bool.eq_iff_iff, beq_iff_eq, bne_iff_ne, nearest]
  omega

theorem classMapEntry_eq (image : List Byte) (a : Nat) : classMapEntry image a =
    ((BitVec.ofNat 16 (fieldAt image a 2),
      match (byteAt image (a + 2)).toNat with | 0 => .bulk | 1 => .stream | _ => .urgent),
      outside 0 2 (byteAt image (a + 2)).toNat) := by
  rw [classMapEntry, clampTo_eq (by decide)]
  generalize (byteAt image (a + 2)).toNat = x
  match x with
  | 0 => rfl
  | 1 => rfl
  | x + 2 => simp [nearest, classOfField]

theorem filterTableEntry_eq (image : List Byte) (a : Nat) : filterTableEntry image a =
    (⟨match (byteAt image a).toNat with | 0 => .destination | 1 => .type | _ => .appid,
      BitVec.ofNat 48 (fieldAt image (a + 1) 6), BitVec.ofNat 48 (fieldAt image (a + 7) 6),
      (byteAt image (a + 13)).toNat != 0⟩,
      outside 0 2 (byteAt image a).toNat + outside 0 1 (byteAt image (a + 13)).toNat) := by
  rw [filterTableEntry, clampTo_eq (by decide), clampTo_eq (by decide), ← nearest_bit]
  generalize (byteAt image a).toNat = x
  match x with
  | 0 => rfl
  | 1 => rfl
  | x + 2 => simp [nearest, selectorOf]

theorem watchTableEntry_eq (image : List Byte) (a : Nat) : watchTableEntry image a =
    let b (i : Nat) : Nat := (byteAt image (a + i)).toNat
    ({ source := BitVec.ofNat 6 (nearest 0 62 (b 0))
       cls := match b 1 with | 0 => .any | 1 => .urgent | 2 => .stream | _ => .bulk
       appid := BitVec.ofNat 16 (fieldAt image (a + 2) 2), mask := BitVec.ofNat 16 (fieldAt image (a + 4) 2)
       interval := BitVec.ofNat 16 (nearest 1 65535 (fieldAt image (a + 6) 2))
       allowN := nearest 1 16 (b 8), allowM := nearest 1 16 (b 9), required := b 10 != 0 },
      outside 0 62 (b 0) + outside 0 3 (b 1) + outside 1 65535 (fieldAt image (a + 6) 2) +
        outside 1 16 (b 8) + outside 1 16 (b 9) + outside 0 1 (b 10)) := by
  let b (i : Nat) : Nat := (byteAt image (a + i)).toNat
  have hcls : watchClassOf (nearest 0 3 (b 1)) =
      match b 1 with | 0 => .any | 1 => .urgent | 2 => .stream | _ => .bulk := by
    generalize b 1 = x
    match x with
    | 0 => rfl
    | 1 => rfl
    | 2 => rfl
    | x + 3 => simp [nearest, watchClassOf]
  show _ = (WatchConfig.mk .., _)
  rw [← hcls, ← nearest_bit]
  simp [watchTableEntry, clampTo_eq, b]

section Placed
variable {α : Type} {read : Nat → α × Nat} {start size : Nat}

theorem placed_map_fst {entry : Nat → α} (h : ∀ i, (read (start + size * i)).1 = entry i) (count limit : Nat) :
    (placed read start size count limit).map Prod.fst = (List.range (min limit count)).map entry := by
  rw [placed, List.map_map, min_comm]
  exact List.map_congr_left fun i _ => (congrArg (fun k => (read (start + k)).1) (Nat.mul_comm i size)).trans (h i)

theorem clampsOf_placed {clamps : Nat → Nat} (h : ∀ i, (read (start + size * i)).2 = clamps i) (count limit : Nat) :
    clampsOf (placed read start size count limit) = ((List.range (min limit count)).map clamps).sum := by
  rw [clampsOf, placed, List.map_map, min_comm]
  exact congrArg List.sum (List.map_congr_left fun i _ =>
    (congrArg (fun k => (read (start + k)).2) (Nat.mul_comm i size)).trans (h i))

end Placed

/-! ### The node and the time source (R174, R176) -/

theorem goodNode_eq (n : Byte) (strap : BitVec 6) :
    let valid := 1 ≤ n.toNat ∧ n.toNat ≤ 62
    goodNode n strap = (if valid then n.setWidth 6 else strap,
      if valid ∨ (strap ≠ 0 ∧ strap ≠ 63) then .running else .transit, decide ¬ valid) := by
  intro valid
  unfold goodNode
  by_cases hv : valid
  · simp [hv, show 1 ≤ n.toNat ∧ n.toNat ≤ 62 from hv]
  · rw [if_neg hv, if_neg hv]
    by_cases hs : strap = 0 ∨ strap = 63
    · have hno : ¬ (valid ∨ (strap ≠ 0 ∧ strap ≠ 63)) := by tauto
      rw [if_pos hs, if_neg hno]
      simp [hv]
    · have hyes : valid ∨ (strap ≠ 0 ∧ strap ≠ 63) := by tauto
      rw [if_neg hs, if_pos hyes]
      simp [hv]

theorem timeSource_eq (n : Nat) : (if n ≤ 62 then (BitVec.ofNat 6 n, 0) else (0, 1) : BitVec 6 × Nat) =
    (BitVec.ofNat 6 (if n ≤ 62 then n else 0), outside 0 62 n) := by
  by_cases h : n ≤ 62 <;> simp [outside, h]

end Sys2Proof.Machine
end

section
/-! ## The configuration of a good image (R173 to R176, R179) -/

namespace Sys2Proof.Machine

/-- An attempt that reads a good image ends the image read: the loader keeps what was decided, and a node bound for
TRANSIT fixes it at once, where no start deadline runs (R118, R176, R179). -/
theorem exec_imageReadAttempt_good {read : ImageRead} {image : List Byte} {s : State}
    (hn : s.loader.nodeState = .loading) (hp : s.loader.phase = .image) (h : attemptResult read = (.good, image)) :
    let g := goodDraft image s.loader.strap (s.loader.attempted .good (imageOps read))
    ∃ t, exec (.imageReadAttempt read) s = .next (settle t) ∧ t.loader.profile = g.profile ∧
      t.loader.overrides = g.overrides ∧ t.loader.clampCount = g.clampCount ∧ t.loader.warnings = g.warnings ∧
      ∀ d, g.draft = some d →
        (d.next ≠ .transit → t.loader.draft = some d ∧ t.slots = s.slots) ∧
        (d.next = .transit → t.loader.config = some d.settings ∧ ∀ i, i < 32 →
          t.slot i = match d.watch[i]? with
            | some w => { inUse := true, config := w }
            | none => {}) := by
  intro g
  obtain ⟨d, hd⟩ : ∃ d, g.draft = some d := ⟨_, rfl⟩
  have hexec : exec (.imageReadAttempt read) s = .next (settle (imageDecided g s)) := by
    simp only [exec, execImageReadAttempt, finish, State.loadingIn_of hn hp, if_true, endAttempt, h]
    rfl
  have hdecided : imageDecided g s =
      if d.next = .transit then endLoading { s with loader := g }
      else beginTransaction (.epochRead 0) { s with loader := g } := by
    unfold imageDecided
    simp only [hd]
  refine ⟨imageDecided g s, hexec, ?_⟩
  rw [hdecided]
  by_cases htransit : d.next = .transit
  · obtain ⟨r, -, -, -, hends⟩ := endLoading_starts (s := s) (o := { s with loader := g }) hd rfl hn
    rw [if_pos htransit, hends (by simp [htransit])]
    refine ⟨rfl, rfl, rfl, rfl, fun d' hd' => ?_⟩
    obtain rfl : d = d' := Option.some.inj (hd.symm.trans hd')
    refine ⟨fun hno => absurd htransit hno, fun _ => ⟨rfl, fun i hi => ?_⟩⟩
    refine (slot_fixConfiguration d { s with loader := g } hi).trans ?_
    cases d.watch[i]? with
    | none => rfl
    | some w => simp [htransit]
  · rw [if_neg htransit]
    refine ⟨rfl, rfl, rfl, rfl, fun d' hd' => ?_⟩
    obtain rfl : d = d' := Option.some.inj (hd.symm.trans hd')
    exact ⟨fun _ => ⟨hd, rfl⟩, fun hyes => absurd hyes htransit⟩

end Sys2Proof.Machine

open Sys2Proof Sys2Proof.Machine

/-- Settles O54: what the loader decides on is read off the image field by field, and the attempt keeps or fixes it. -/
theorem goodImagesGiveTheConfiguration : Obligations.GoodImagesGiveTheConfiguration := by
  intro read image s hn hp hgood b near outside columns sel col flag setting missed number stored group filters watches
    classEntry filterEntry watchEntry clamps settings watch member
  obtain ⟨t, hexec, hprofile, hoverrides, hcount, hwarnings, hends⟩ := exec_imageReadAttempt_good hn hp hgood
  have hlen : 31 ≤ image.length := le_trans (by decide) (length_of_attemptResult hgood)
  have hnode : goodNode (byteAt image 6) s.loader.strap = (number, if member then .running else .transit, _) :=
    goodNode_eq ..
  have hgroup : isGroup stored = decide group := isGroup_fieldAt hlen
  have hclass (i : Nat) : classMapEntry image (42 + 3 * i) = (classEntry i, _) := classMapEntry_eq ..
  have hfilter (i : Nat) : filterTableEntry image (filters + 14 * i) = (filterEntry i, _) := filterTableEntry_eq ..
  have hwatch (i : Nat) : watchTableEntry image (watches + 11 * i) = (watchEntry i, _) := watchTableEntry_eq ..
  have hsel : (if b 3 ≤ 3 then BitVec.ofNat 2 (b 3) else 0) = BitVec.ofNat 2 sel := by
    simp only [sel]
    split <;> rfl
  have hcol : profileOf (BitVec.ofNat 2 sel) = col := profileOf_ofNat (by simp only [sel]; split <;> omega)
  have hsource : (if b 33 ≤ 62 then (BitVec.ofNat 6 (b 33), 0) else (0, 1)) =
      (settings.timeSource, outside 0 62 (b 33)) := timeSource_eq ..
  have hperiod : clampTo 1 255 (b 34) = (settings.timePeriod, outside 1 255 (b 34)) := clampTo_eq (by decide) _
  have hroll : (byteAt image 7).getLsbD 0 = settings.autoRoll :=
    (getLsbD_eq_decide ..).trans (by rw [pow_zero, Nat.div_one])
  have hpass : (byteAt image 7).getLsbD 1 = settings.filterPass := getLsbD_eq_decide ..
  have hcontrol : (if isGroup stored then nodeAddress number else stored) = settings.control :=
    if_congr (by rw [hgroup]; exact decide_eq_true_iff) rfl rfl
  let g := goodDraft image s.loader.strap (s.loader.attempted .good (imageOps read))
  have hdraft : g.draft = some ⟨settings, watch, if member then .running else .transit⟩ := by
    unfold g goodDraft
    dsimp only
    rw [hnode, hsel, hcol, imageProfile_settings, hcontrol, hsource, hperiod, hroll, hpass,
      placed_map_fst fun i => congrArg Prod.fst (hclass i), placed_map_fst fun i => congrArg Prod.fst (hfilter i),
      placed_map_fst fun i => congrArg Prod.fst (hwatch i)]
    rfl
  have hclamps : g.clampCount = min 255 clamps ∧ g.warnings = { s.loader.warnings with
      badProfile := 3 < b 3, clamped := 0 < clamps, extraEntries := 8 < b 39 ∨ 16 < b 40 ∨ 32 < b 41
      nodeStrapped := ¬ (1 ≤ b 6 ∧ b 6 ≤ 62), badAddress := group } := by
    unfold g goodDraft
    dsimp only
    rw [hnode, imageProfile_clamps, hgroup, hsource, hperiod, clampsOf_placed fun i => congrArg Prod.snd (hclass i),
      clampsOf_placed fun i => congrArg Prod.snd (hfilter i), clampsOf_placed fun i => congrArg Prod.snd (hwatch i)]
    exact ⟨rfl, rfl⟩
  obtain ⟨hmember, hnot⟩ := hends _ hdraft
  refine ⟨t, hexec, hprofile.trans hsel, hoverrides, hcount.trans hclamps.1, hwarnings.trans hclamps.2, fun hm => ?_,
    fun hm => hnot (if_neg hm)⟩
  obtain ⟨hkept, hslots⟩ := hmember (by simp [hm])
  exact ⟨hkept.trans (by rw [if_pos hm]), hslots⟩
end

section
/-! ## What the ring check unit keeps (R129, R133, R136, R137) -/

namespace Sys2Proof.Machine

/-! ### Lanes and the ring state -/

theorem ringOf_eq_closed_iff (e w : LaneState) : ringOf e w = .closed ↔ e = .closed ∧ w = .closed := by
  cases e <;> cases w <;> decide

theorem ringOf_eq_opened_iff (e w : LaneState) : ringOf e w = .opened ↔ e = .broken ∨ w = .broken := by
  cases e <;> cases w <;> decide

/-- A lane as it starts is lawful under any miss limit of at least 1. -/
theorem CheckLane.Law.start {c : Nat} (hc : 1 ≤ c) : ({} : CheckLane).Law c := ⟨nofun, fun _ => hc⟩

theorem CheckLane.Law.broken (c : Nat) (l : CheckLane) : (l.breakBy c).Law c := ⟨fun _ => rfl, fun h => absurd rfl h⟩

/-- A judgement keeps a lane's law: the miss that reaches the limit breaks the lane (R135). -/
theorem CheckLane.Law.judged {c : Nat} {l : CheckLane} (h : l.Law c) : (l.judge c).Law c := by
  obtain ⟨-, -, -, -, -, hkeeps, hmisses⟩ := l.judge_spec c
  cases hr : l.returned
  · obtain ⟨hmiss, hbreaks, hstays⟩ := hmisses hr
    by_cases hc : c ≤ l.miss + 1
    · exact ⟨fun _ => hmiss.trans (min_eq_left hc), fun hn => absurd (hbreaks hc).1 hn⟩
    · have hstate : (l.judge c).state = l.state := (hstays (Nat.lt_of_not_le hc)).1
      have hopen : l.state ≠ .broken := fun hb => hc (by rw [h.1 hb]; exact Nat.le_succ c)
      exact ⟨fun hb => absurd (hstate.symm.trans hb) hopen, fun _ => by omega⟩
  · obtain ⟨hstate, hmiss, -⟩ := hkeeps hr
    rw [CheckLane.Law, hstate, hmiss]
    exact h

/-- An update of a lane keeps its law: a counted return closes the lane with no miss, unless a port is DOWN (R133). -/
theorem CheckLane.Law.step {c : Nat} {down : Bool} {a b : CheckLane} (hc : 1 ≤ c) (hs : LaneStep c down a b)
    (h : a.Law c) : b.Law c := by
  cases hs with
  | same => exact h
  | judge => exact h.judged
  | counted =>
    cases down
    · exact ⟨nofun, fun _ => hc⟩
    · exact h
  | late => exact h

theorem CheckLane.judge_closed {c : Nat} {l : CheckLane} (h : (l.judge c).state = .closed) : l.state = .closed := by
  unfold CheckLane.judge at h
  dsimp only at h
  split at h
  · exact h
  · split at h
    · exact absurd h nofun
    · exact h

/-- A lane is CLOSED after an update only where it was, or where neither ring port is DOWN (R133). -/
theorem LaneStep.closed {c : Nat} {down : Bool} {a b : CheckLane} (hs : LaneStep c down a b) (h : b.state = .closed) :
    a.state = .closed ∨ down = false := by
  cases hs with
  | same => exact .inl h
  | judge => exact .inl (CheckLane.judge_closed h)
  | counted =>
    cases down
    · exact .inr rfl
    · exact .inl h
  | late => exact .inl h

/-! ### The law of the ring -/

/-- The miss limit that the loader is about to fix is at least 1. -/
def Loader.LimitsMisses (l : Loader) : Prop := ∀ d, l.draft = some d → 1 ≤ d.settings.profile.missLimit

theorem Loader.LimitsMisses.decided {l m : Loader} (h : Decided l m) : m.LimitsMisses := by
  intro d hd
  have hlaw : d.Law := by
    cases h with
    | good => exact goodDraft_law hd
    | bad => exact badDraft_law hd
  obtain ⟨⟨⟨-, -, hmiss, -⟩, -⟩, -⟩ := hlaw
  exact hmiss

namespace State.RingLaw
variable {s t : State}

/-- The ring's law is about the ring check unit, the loader and which ring ports are DOWN: a port that leaves DOWN
touches none of it. -/
theorem of_up (h : s.RingLaw) (hcheck : t.check = s.check) (hloader : t.loader = s.loader)
    (hup : s.ringPortDown = false → t.ringPortDown = false) : t.RingLaw := by
  obtain ⟨hring, hclosed, he, hw, hout, hlimit, hdraft⟩ := h
  have hcfg : t.cfg = s.cfg := congrArg (fun l : Loader => l.config.getD {}) hloader
  have hmember : t.member = s.member := by simp only [State.member, hloader]
  unfold State.RingLaw
  rw [hcheck, hcfg, hmember, hloader]
  exact ⟨hring, fun hc => hup (hclosed hc), he, hw, hout, hlimit, hdraft⟩

theorem congr (h : s.RingLaw) (hports : t.ports = s.ports) (hcheck : t.check = s.check)
    (hloader : t.loader = s.loader) : t.RingLaw :=
  h.of_up hcheck hloader fun hd => by simpa only [State.ringPortDown, State.isDown, State.port, hports] using hd

/-- A unit at its start values is lawful for any node state and any loader of limits at least 1. -/
theorem started (hcheck : t.check = {}) (hlimit : 1 ≤ t.cfg.profile.missLimit) (hdraft : t.loader.LimitsMisses) :
    t.RingLaw := by
  unfold State.RingLaw
  rw [hcheck]
  exact ⟨rfl, by rintro (h | h) <;> exact absurd h nofun, .start hlimit, .start hlimit, fun _ => rfl, hlimit, hdraft⟩

theorem member_of_ne (h : s.RingLaw) (hm : s.member = true ∨ s.check ≠ {}) : s.member = true := by
  obtain ⟨-, -, -, -, hout, -⟩ := h
  by_contra hno
  exact hm.elim hno fun hne => hne (hout (Bool.eq_false_iff.mpr hno))

/-- A port unit replaced by one that is DOWN only where the old one was. -/
theorem setPort (h : s.RingLaw) {p : Port} {u : PortUnit} (hu : u.state = .down → (s.port p).state = .down) :
    (s.setPort p u).RingLaw := by
  refine h.of_up rfl rfl fun hup => ?_
  simp only [State.ringPortDown, Bool.or_eq_false_iff] at hup ⊢
  have hport (q : Port) (hq : s.isDown q = false) : (s.setPort p u).isDown q = false := by
    simp only [State.isDown, port_setPort, beq_eq_false_iff_ne] at hq ⊢
    split
    · next hqp => exact fun hd => hq (hqp ▸ hu hd)
    · exact hq
  exact ⟨hport _ hup.1, hport _ hup.2⟩

theorem dropReception (h : s.RingLaw) (p : Port) : (dropReception p s).RingLaw := by
  rw [dropReception_eq]
  exact h.congr rfl rfl rfl

/-- A frame's outcome leaves the state of its port. -/
theorem countOutcome (h : s.RingLaw) (p : Port) (o : FrameOutcome) : (countOutcome p o s).RingLaw :=
  h.setPort fun hd => hd

/-- Both lanes take new values in a ring member (R137). -/
theorem withLanes (h : s.RingLaw) (hm : s.member = true) {e w : CheckLane} (he : e.Law s.cfg.profile.missLimit)
    (hw : w.Law s.cfg.profile.missLimit) (hclosed : e.state = .closed ∨ w.state = .closed → s.ringPortDown = false) :
    (s.withLanes e w).RingLaw := by
  obtain ⟨-, -, -, -, -, hlimit, hdraft⟩ := h
  exact ⟨rfl, hclosed, he, hw, fun hno => absurd (hm.symm.trans hno) nofun, hlimit, hdraft⟩

/-- A port's fall breaks both lanes where it is a ring port, so none stays CLOSED (R136). -/
theorem fallen (h : s.RingLaw) (p : Port) : (fallen p s).RingLaw := by
  obtain ⟨hring, hclosed, he, hw, hout, hlimit, hdraft⟩ := h
  rw [fallen_eq]
  cases p with
  | tap => exact ⟨hring, hclosed, he, hw, hout, hlimit, hdraft⟩
  | _ =>
    cases hm : s.member
    · refine started ?_ hlimit hdraft
      simp only [Port.ring?, breakLanes, hm]
      exact hout hm
    · simp only [Port.ring?, breakLanes, hm, if_true]
      exact ⟨rfl, by rintro (hc | hc) <;> exact absurd hc nofun, .broken _ _, .broken _ _,
        fun hno => absurd (hm.symm.trans hno) nofun, hlimit, hdraft⟩

/-- A configuration set is fixed in LOADING, where the unit still has its start values (R179). -/
theorem fixConfiguration (h : s.RingLaw) (hn : s.loader.nodeState = .loading) {d : Draft}
    (hd : 1 ≤ d.settings.profile.missLimit) {l : Loader} :
    (fixConfiguration d { s with loader := l }).RingLaw := by
  obtain ⟨-, -, -, -, hout, -⟩ := h
  exact started (hout (by simp [State.member, hn])) hd nofun

theorem start (c : StartCause) (s : State) : (takeStart c s).RingLaw := by
  obtain ⟨-, -, -, -, -, -, -, -, -, -, -, -, hcheck, -, -, -, hconfig, hdraft, -⟩ := takeStart_started c s
  refine started hcheck ?_ fun d hd => absurd (hdraft.symm.trans hd) nofun
  rw [State.cfg, hconfig]
  decide

/-- ZERO takes no part of the unit that the law is about (R147). -/
theorem zero (h : s.RingLaw) : (zeroCounters s).RingLaw := by
  obtain ⟨hring, hclosed, he, hw, hout, hlimit, hdraft⟩ := h
  refine ⟨hring, hclosed, he, hw, fun hm => ?_, hlimit, hdraft⟩
  have hcheck : s.check = {} := hout hm
  simp only [zeroCounters, hcheck]
  rfl

end State.RingLaw

/-- No update of a port unit makes it DOWN. -/
theorem PortStep.down {p : Port} {a b : PortUnit} (hs : PortStep p a b) (h : b.state = .down) : a.state = .down := by
  cases hs with
  | up => exact absurd h nofun
  | window =>
    simp only [PortUnit.judgeWindow] at h
    split at h <;> exact absurd h nofun
  | _ => exact h

/-- The updates that commands are made of keep the ring's law. -/
theorem ringLaw_kept : Kept State.RingLaw where
  port := fun _ _ _ hu h => h.setPort hu.down
  check := fun s o c hs h ho hl hm => by
    obtain ⟨hr, he, hw, hme, hmw⟩ := hs
    have hmember : s.member = true := by
      have hom := ho.member_of_ne hm
      simpa only [State.member, hl] using hom
    obtain ⟨hring, hclosed, hle, hlw, -, hlimit, hdraft⟩ := h
    refine ⟨?_, ?_, ?_, ?_, fun hno => absurd (hmember.symm.trans hno) nofun, hlimit, hdraft⟩
    · dsimp only
      rw [hr, he, hw, hring]
    · dsimp only
      rw [he, hw]
      exact hclosed
    · dsimp only [CheckLane.Law]
      rw [he, hme]
      exact hle
    · dsimp only [CheckLane.Law]
      rw [hw, hmw]
      exact hlw
  lanes := fun s e w hse hsw hm h => by
    have hmember := h.member_of_ne hm
    have ⟨_, hclosed, hle, hlw, _, hlimit, _⟩ := h
    refine h.withLanes hmember (hle.step hlimit hse) (hlw.step hlimit hsw) ?_
    rintro (hc | hc)
    · exact (hse.closed hc).elim (fun ha => hclosed (.inl ha)) id
    · exact (hsw.closed hc).elim (fun ha => hclosed (.inr ha)) id
  startRepeat := fun s out h => by
    unfold startRepeat
    split
    · exact h
    · split
      · exact h.congr rfl rfl rfl
      · exact h
  repeatDone := fun s out f b d _ h => h.congr rfl rfl rfl
  repeatTake := fun s p f _ _ _ h =>
    (h.congr (t := s.setDir ..) rfl rfl rfl).setPort fun hd => hd
  giant := fun s p h => (h.dropReception p).setPort fun hd => hd
  endError := fun s p o _ h => (h.dropReception p).countOutcome p o
  endIntact := fun s p _ _ h => h.countOutcome p .intact
  repeatLoses := fun s p f _ h => (h.countOutcome p.port .intact).congr rfl rfl rfl
  repeatJoins := fun s p f b _ h => (h.countOutcome p.port .intact).congr rfl rfl rfl
  fallen := fun s p _ h => h.fallen p
  zero := fun _ h => h.zero
  start := fun s c _ => .start c s
  enter := fun s st hn h => by
    obtain ⟨-, -, -, -, hout, hlimit, hdraft⟩ := h
    exact .started (hout (by simp [State.member, hn])) hlimit hdraft
  begins := by intros; assumption
  retry := by intros; assumption
  decides := fun s l d hi hl _ h => by
    obtain ⟨-, -, -, -, hout, hlimit, -⟩ := h
    refine .started (hout (by simp [State.member, (State.loadingIn_state hi).1])) ?_ (Loader.LimitsMisses.decided hl :)
    cases hl <;> exact hlimit
  transit := fun s l d hi hl hd h =>
    h.fixConfiguration (State.loadingIn_state hi).1 (Loader.LimitsMisses.decided hl d hd)
  fix := fun s d hn hd h => by
    have ⟨_, _, _, _, _, _, hdraft⟩ := h
    exact h.fixConfiguration hn (hdraft d hd) (l := s.loader)

theorem State.RingLaw.closed_iff {s : State} (h : s.RingLaw) : s.check.ring = .closed ↔
    s.check.lanes.e.state = .closed ∧ s.check.lanes.w.state = .closed := by
  obtain ⟨hring, -⟩ := h
  rw [hring]
  exact ringOf_eq_closed_iff ..

theorem State.RingLaw.opened_iff {s : State} (h : s.RingLaw) : s.check.ring = .opened ↔
    s.check.lanes.e.state = .broken ∨ s.check.lanes.w.state = .broken := by
  obtain ⟨hring, -⟩ := h
  rw [hring]
  exact ringOf_eq_opened_iff ..

theorem State.RingLaw.ports_up {s : State} (h : s.RingLaw) (hc : s.check.ring = .closed) :
    s.isDown .east = false ∧ s.isDown .west = false := by
  have ⟨_, hclosed, _⟩ := h
  exact Bool.or_eq_false_iff.mp (hclosed (.inl (h.closed_iff.mp hc).1))

end Sys2Proof.Machine

open Sys2Proof Sys2Proof.Machine

/-- Settles O43: the ring's law is an invariant of the updates that commands are made of, and reads off both tables. -/
theorem theRingIsClosedOnlyWithBothPortsUp : Obligations.TheRingIsClosedOnlyWithBothPortsUp := by
  refine ⟨fun s t h hstep => ?_, fun s h => ⟨h.closed_iff, h.opened_iff⟩⟩
  obtain ⟨u, hu, hlaw⟩ := ringLaw_kept.step (fun _ _ h => h) (fun _ h => h) h
  rw [hstep] at hu
  cases hu
  exact ⟨hlaw, hlaw.ports_up⟩
end

section
/-! ## Time on an empty queue (R139, R140) -/

namespace Sys2Proof.Machine

/-- A count of every `d`-th cycle, modulo 2^32: it advances where `d` divides the cycle reached (R139, R140). -/
theorem ofNat_succ_div (n d : Nat) : BitVec.ofNat 32 ((n + 1) / d) =
    if (n + 1) % d = 0 then BitVec.ofNat 32 (n / d) + 1 else BitVec.ofNat 32 (n / d) := by
  simp only [Nat.succ_div, Nat.dvd_iff_mod_eq_zero]
  split
  · exact BitVec.ofNat_add ..
  · rfl

/-- The clocks after `n` cycles of REFCLK from a start. -/
def Clock.after (n : Nat) : Clock := ⟨n, BitVec.ofNat 32 (n / 50), BitVec.ofNat 32 (n / 500)⟩

theorem Clock.tick_after (n : Nat) : (Clock.after n).tick = Clock.after (n + 1) := by
  unfold Clock.after
  rw [ofNat_succ_div, ofNat_succ_div]
  rfl

end Sys2Proof.Machine

open Sys2Proof Sys2Proof.Machine

/-- Settles O2, by induction on the number of cycles. -/
theorem emptyQueueLetsTimePass : Obligations.EmptyQueueLetsTimePass := by
  refine ⟨fun s h => by rw [step, h], fun n s h => ?_⟩
  change Nat.repeat State.tick n s = { s with clock := Clock.after n }
  induction n with
  | zero => cases s; cases h; rfl
  | succ n ih =>
    calc Nat.repeat State.tick (n + 1) s
      _ = State.tick { s with clock := Clock.after n } := congrArg State.tick ih
      _ = { s with clock := Clock.after (n + 1) } := by rw [State.tick, Clock.tick_after]
end

section
/-! ## Events that come to tell of the lanes (R16, R36, R135 to R137, R150) -/

namespace Sys2Proof.Machine

/-- An event that began in `s` has come to `w`: it has noted these items, and has sent nothing on the tap port where it
changed the ring state. -/
structure ComesTo (items : List Item) (s w : State) : Prop where
  notes : SameNotes w (items.foldl (fun u i => note i u) s)
  hold : w.report.hold = s.report.hold
  notices : w.report.notices = s.report.notices
  loader : w.loader = s.loader
  clock : w.clock = s.clock
  roll : w.roll = s.roll
  free : s.free ≤ w.free
  tap : w.check.ring ≠ s.check.ring → w.eg .tap = s.eg .tap

section Comes
variable {items : List Item} {s w : State}

theorem SameNotes.refl (s : State) : SameNotes s s := ⟨rfl, rfl, rfl⟩

theorem ComesTo.cfg (h : ComesTo items s w) : w.cfg = s.cfg := congrArg (fun l : Loader => l.config.getD {}) h.loader

theorem ComesTo.member (h : ComesTo items s w) : w.member = s.member := by simp only [State.member, h.loader]

theorem ComesTo.noted (h : ComesTo items s w) : s.Noted items w.report := .of_sameNotes h.notes

theorem ComesTo.note (h : ComesTo items s w) (i : Item) : ComesTo (items ++ [i]) s (note i w) where
  notes := by
    rw [List.foldl_append]
    exact h.notes.notes [i]
  hold := (SameTimers.note i w).hold.trans h.hold
  notices := (note_notices i w).1.trans h.notices
  loader := (note_loader i w).trans h.loader
  clock := (SameBut.note i w).clock.trans h.clock
  roll := (roll_kept_note i w).trans h.roll
  free := h.free.trans (Nat.le_of_eq (congrArg Pool.free (note_pool i w)).symm)
  tap := fun hr => (congrArg (·.get .tap) (note_egress i w)).trans (h.tap (by rwa [← (SameBut.note i w).check]))

/-- An event that notes more items has come further. -/
theorem ComesTo.noting (l : List Item) (h : ComesTo items s w) :
    ComesTo (items ++ l) s (l.foldl (fun u i => Machine.note i u) w) := by
  induction l generalizing items w with
  | nil => rwa [List.append_nil]
  | cons i l ih =>
    have hrest := ih (h.note i)
    rwa [List.append_assoc] at hrest

/-- What an event notes when it tells of the lanes that it changed (R137). -/
def toldNotes (s w : State) : State := (s.check.changedItems w.check).foldl (fun u i => Machine.note i u) w

theorem ComesTo.told (h : ComesTo items s w) :
    ComesTo (items ++ s.check.changedItems w.check) s (toldNotes s w) := h.noting _

/-- Where no trigger follows, the telling is the notes (R137). -/
theorem ComesTo.tellLanes_eq (h : ComesTo items s w) (hq : w.check.ring = s.check.ring ∨ s.cfg.autoRoll = false) :
    tellLanes s.check w = toldNotes s w := tellLanes_eq_notes _ _ (by rwa [h.cfg])

end Comes

/-! ### A port's fall -/

/-- A port that has fallen at LINK_FALL, with the port noted and nothing told of the lanes (R16). -/
def fallNoted (p : Port) (s : State) : State := note (.port p) (fallen p (setLink p false s))

theorem fallNoted_check_ring (p : RingPort) (s : State) :
    (fallNoted p.port s).check = (breakLanes (setLink p.port false s)).check := by
  rw [fallNoted, note_eq, fallen_eq, RingPort.port_ring]

theorem fallNoted_check_tap (s : State) : (fallNoted .tap s).check = s.check := by
  rw [fallNoted, note_eq]
  exact fallen_check_tap _

theorem releases_free (es : List Entry) (q : Pool) : q.free ≤ (es.foldl (fun q e => q.release e.buf) q).free := by
  induction es generalizing q with
  | nil => exact le_rfl
  | cons e es ih => exact (Nat.sub_le_sub_left (Pool.release_length q e.buf) 256).trans (ih _)

/-- A fall ends holds and takes no buffer. -/
theorem fallen_free (p : Port) (s : State) : s.free ≤ (fallen p s).free := by
  have hdrop : s.pool.free ≤ (dropReception p s).pool.free := by
    rw [dropReception_eq]
    dsimp only
    split
    · exact Nat.sub_le_sub_left (Pool.release_length ..) 256
    · exact le_rfl
  rw [fallen_eq]
  exact hdrop.trans (releases_free ..)

theorem fallen_tap {p : Port} (hp : p ≠ .tap) (s : State) : (fallen p s).eg .tap = s.eg .tap := by
  rw [fallen_eq]
  exact (PerPort.get_set ..).trans (if_neg hp.symm)

theorem fallNoted_comesTo (p : Port) (s : State) : ComesTo [.port p] s (fallNoted p s) := by
  let t := fallen p (setLink p false s)
  obtain ⟨hloader, hclock, hroll, hchanges, hmore, hhold, hnotices⟩ :
      t.loader = s.loader ∧ t.clock = s.clock ∧ t.roll = s.roll ∧ t.report.changes = s.report.changes ∧
        t.report.more = s.report.more ∧ t.report.hold = s.report.hold ∧ t.report.notices = s.report.notices := by
    simp only [t, fallen_eq]
    exact ⟨rfl, rfl, rfl, rfl, rfl, rfl, rfl⟩
  have hfall : ComesTo [] s t :=
    { notes := ⟨congrArg Loader.nodeState hloader, hchanges, hmore⟩
      hold := hhold, notices := hnotices, loader := hloader, clock := hclock, roll := hroll
      free := fallen_free p (setLink p false s)
      tap := fun hr => fallen_tap (by rintro rfl; exact hr (congrArg RingCheck.ring (fallen_check_tap _))) _ }
  exact hfall.note (.port p)

end Sys2Proof.Machine

open Sys2Proof Sys2Proof.Machine

/-- Settles O8: the lanes after a ring port's fall are read off `breakLanes`, and where no trigger follows the telling
of them is their notes. -/
theorem ringPortFallBreaksBothLanes : Obligations.RingPortFallBreaksBothLanes := by
  have hcheck (p : Port) (s : State) : (portFalls p (setLink p false s)).check = (fallNoted p s).check :=
    (SameBut.tellLanes ..).check
  refine ⟨fun s => ?_, fun p s hd hm => ⟨_, exec_linkFall hd, ?_, fun hq => ?_⟩⟩
  · cases hd : s.isDown .tap
    · exact ⟨_, exec_linkFall hd, (hcheck .tap s).trans (fallNoted_check_tap s)⟩
    · exact ⟨_, exec_linkFall_of_down hd, rfl⟩
  all_goals
    have hm' : (setLink p.port false s).member = true := hm
    have hbroken := fallNoted_check_ring p s
    rw [breakLanes, if_pos hm'] at hbroken
    rw [hcheck]
  · exact hbroken
  · have hcomes := fallNoted_comesTo p.port s
    have htold : portFalls p.port (setLink p.port false s) = toldNotes s (fallNoted p.port s) :=
      hcomes.tellLanes_eq (hq.imp_left fun ho => (congrArg RingCheck.ring hbroken).trans ho.symm)
    rw [htold]
    exact hcomes.told.noted
end

section
/-! ## What a report and a round's start leave of the report unit's lists (R150, R151, R185 to R187) -/

namespace Sys2Proof.Machine

/-! ### The report that is composed before a trigger (R186, R187) -/

section Report
variable {s : State}

/-- A note leaves something on the list (R185). -/
theorem note_changes_ne_nil (i : Item) (hn : s.loader.nodeState ≠ .reset) : (note i s).report.changes ≠ [] := by
  unfold note
  split
  · next h => exact List.ne_nil_of_mem (h.resolve_left hn)
  · split
    · exact List.append_ne_nil_of_right_ne_nil _ (List.cons_ne_nil _ _)
    · next hlong => exact fun h => hlong (by rw [h]; decide)

theorem sendLocal_notes (b : Nat) (c : List Byte) (r : Bool) (s : State) : SameNotes (sendLocal b c r s) s := by
  by_cases h : s.isDown .tap = false ∧ (s.eg .tap).bulk.length < 96
  · rw [sendLocal_joins h.1 h.2]
    exact ⟨rfl, rfl, rfl⟩
  · obtain ⟨counters, he⟩ := sendLocal_refused h b c r
    rw [he]
    exact ⟨rfl, rfl, rfl⟩

theorem composeLocal_sent (c : State → List Byte) (r : Bool) (done : State → State) (hf : 49 ≤ s.free) :
    ∃ t, SameNotes t s ∧ composeLocal c r done s = done t := by
  have htake : generatorTake .bulk s = (some s.pool.take.1, { s with pool := s.pool.take.2 }) := if_pos hf
  unfold composeLocal
  rw [htake]
  refine ⟨_, ?_, rfl⟩
  exact (sendLocal_notes ..).trans ⟨rfl, rfl, rfl⟩

theorem composeLocal_notes_refused (c : State → List Byte) (r : Bool) (done : State → State) (hf : ¬ 49 ≤ s.free) :
    SameNotes (composeLocal c r done s) s := by
  have htake : generatorTake .bulk s = (none, { s with pool := { s.pool with refused := raise s.pool.refused } }) :=
    if_neg hf
  unfold composeLocal
  rw [htake]
  exact ⟨rfl, rfl, rfl⟩

/-- A frame whose end leaves the change list leaves it sent or refused. -/
theorem composeLocal_notes (c : State → List Byte) (r : Bool) {done : State → State}
    (hd : ∀ t, SameNotes (done t) t) : SameNotes (composeLocal c r done s) s := by
  by_cases hf : 49 ≤ s.free
  · obtain ⟨t, ht, he⟩ := composeLocal_sent c r done hf
    rw [he]
    exact (hd t).trans ht
  · exact composeLocal_notes_refused c r done hf

/-- The state with its change list carried by a node report, or left (R187). -/
def State.listCarried (carried : Prop) [Decidable carried] (s : State) : State :=
  { s with report := { s.report with
      changes := if carried then [] else s.report.changes, more := if carried then false else s.report.more } }

/-- With something on the list, a node report carries it exactly when the hold has run out, no notice waits and the
pool grants a buffer (R91, R186, R187). -/
theorem reportService_notes {carried : Prop} [Decidable carried]
    (hc : carried ↔ s.member = true ∧ s.report.hold = none ∧ s.report.notices = [] ∧ 49 ≤ s.free)
    (hne : s.member = true → s.report.changes ≠ []) : SameNotes (reportService s) (s.listCarried carried) := by
  by_cases hcar : carried
  · obtain ⟨hm, hh, hn, hf⟩ := hc.mp hcar
    obtain ⟨t, ht, he⟩ :=
      composeLocal_sent nodeReportContent false (fun t => reportMade (listReported t)) hf
    have hserve : reportService s = reportMade (listReported t) := by
      rw [← he, reportService, hm, hh]
      simp only [composeWaiting, hn, hne hm, ne_eq, not_false_iff, true_or, if_true]
      rfl
    rw [hserve]
    exact ⟨ht.nodeState, (if_pos hcar).symm, (if_pos hcar).symm⟩
  · have hlist : SameNotes s (s.listCarried carried) := ⟨rfl, (if_neg hcar).symm, (if_neg hcar).symm⟩
    refine SameNotes.trans ?_ hlist
    unfold reportService
    split
    · next hserve =>
      obtain ⟨hm, hh⟩ : s.member = true ∧ s.report.hold = none := by simpa using hserve
      unfold composeWaiting
      split
      · exact composeLocal_notes _ _ fun _ => ⟨rfl, rfl, rfl⟩
      · next hn =>
        rw [if_pos (.inl (hne hm))]
        exact composeLocal_notes_refused _ _ _ fun hf => hcar (hc.mpr ⟨hm, hh, hn, hf⟩)
    · exact .refl s

end Report

/-! ### Rounds note the roll (R151, R161) -/

/-- What is on the list, or dropped with MORE set, is noted again without effect (R185). -/
theorem note_note (i : Item) (s : State) : note i (note i s) = note i s := by
  obtain h | ⟨-, -, h⟩ | ⟨hi, hlen, h⟩ := note_cases i s <;> rw [h]
  · exact h
  · exact if_pos (.inr (List.mem_append_right _ (List.mem_singleton_self i)))
  · unfold note
    split
    · rfl
    · exact if_neg (Nat.not_lt.mpr hlen)

/-- A part of a round that notes the roll, sends nothing on the tap port and changes nothing else of the list. -/
structure NotesRoll (s t : State) : Prop where
  notes : SameNotes t (note .roll s)
  tap : t.eg .tap = s.eg .tap

section Rounds
variable {s t u : State}

theorem SameNotes.note (h : SameNotes s t) (i : Item) : SameNotes (note i s) (note i t) := h.notes [i]

theorem NotesRoll.trans (h : NotesRoll s t) (g : NotesRoll t u) : NotesRoll s u := by
  have hnotes := g.notes.trans (h.notes.note .roll)
  rw [note_note] at hnotes
  exact ⟨hnotes, g.tap.trans h.tap⟩

theorem SameNotes.withRoll (r : RollUnit) (s : State) : SameNotes { s with roll := r } s := ⟨rfl, rfl, rfl⟩

theorem NotesRoll.of_roll {r : RollUnit} (h : NotesRoll { s with roll := r } t) : NotesRoll s t :=
  ⟨h.notes.trans ((SameNotes.withRoll r s).note .roll), h.tap⟩

theorem addNotice_notes (n : Notice) (s : State) : SameNotes (addNotice n s) s := by
  unfold addNotice
  split <;> exact ⟨rfl, rfl, rfl⟩

theorem openedRoll_notes (c : RollCause) (s : State) : SameNotes (openedRoll c s).2 s := by
  have hloader : (openedRoll c s).2.loader = s.loader := by
    unfold openedRoll
    split
    · rfl
    · exact (SameBut.sendRoll (openRound c s)).loader
  have hreport := openedRoll_report c s
  exact ⟨congrArg Loader.nodeState hloader, congrArg ReportUnit.changes hreport, congrArg ReportUnit.more hreport⟩

theorem beginRound_notesRoll (c : RollCause) (s : State) : NotesRoll s (beginRound c s) := by
  refine ⟨?_, (congrArg (·.get .tap) (beginRound_sends c s).1).trans (openedRoll_tap c s)⟩
  rw [beginRound_eq]
  exact ((addNotice_notes ..).trans (openedRoll_notes c s)).note .roll

theorem closeRound_notesRoll (s : State) : NotesRoll s (closeRound s) := by
  refine ⟨?_, congrArg (·.get .tap) (closeRound_egress s)⟩
  exact ((addNotice_notes ..).trans (.withRoll _ s)).note .roll

theorem startLastRound_notesRoll (c : RollCause) (s : State) : NotesRoll s (startLastRound c s) := by
  have hbegin := beginRound_notesRoll c s
  unfold startLastRound
  dsimp only
  split
  · exact hbegin.trans (closeRound_notesRoll _)
  · exact hbegin

theorem endRound_notesRoll (s : State) : NotesRoll s (endRound s) := by
  have hclose := (closeRound_notesRoll { s with roll := { s.roll with again := false } }).of_roll
  unfold endRound
  dsimp only
  split
  · exact hclose.trans (startLastRound_notesRoll ..)
  · exact hclose

theorem startRound_notesRoll (c : RollCause) (s : State) : NotesRoll s (startRound c s) := by
  have hbegin := beginRound_notesRoll c s
  unfold startRound
  dsimp only
  split
  · exact hbegin.trans (endRound_notesRoll _)
  · exact hbegin

/-! ### What a trigger makes of the roll unit (R150) -/

theorem autoTrigger_of_running (hr : s.roll.running = true) :
    autoTrigger s = { s with roll := { s.roll with again := true } } := if_pos hr

theorem autoTrigger_of_idle (hr : s.roll.running = false) : autoTrigger s = startRound .auto s :=
  if_neg (by rw [hr]; exact Bool.false_ne_true)

/-- A trigger leaves the tap port's scheduler, and of the list it notes the roll, where no round runs. -/
theorem autoTrigger_lists (s : State) : (autoTrigger s).eg .tap = s.eg .tap ∧ SameNotes (autoTrigger s)
    ((if s.roll.running = true then [] else [Item.roll]).foldl (fun u i => note i u) s) := by
  cases hr : s.roll.running
  · rw [autoTrigger_of_idle hr]
    have hround := startRound_notesRoll .auto s
    exact ⟨hround.tap, hround.notes⟩
  · rw [autoTrigger_of_running hr]
    exact ⟨rfl, rfl, rfl, rfl⟩

theorem closeRound_roll (s : State) : (closeRound s).roll =
    { s.roll with running := false, timeout := none, lanes := ⟨{}, {}⟩, map := roundRecord s } :=
  (roll_kept_note ..).trans (addNotice_roll ..)

/-- A round that a trigger starts with a ring port not DOWN runs (R151). -/
theorem autoTrigger_roll_of_up (hr : s.roll.running = false)
    (hup : ¬ (s.isDown .east = true ∧ s.isDown .west = true)) :
    (autoTrigger s).roll = (openRound .auto s).roll := by
  rw [autoTrigger_begins hr hup, beginRound_roll]

/-- A round that a trigger starts with both ring ports DOWN is over at once, with outcome OPEN (R151, R159). -/
theorem autoTrigger_roll_of_down (hr : s.roll.running = false) (ha : s.roll.again = false)
    (he : s.isDown .east = true) (hw : s.isDown .west = true) :
    let r := (autoTrigger s).roll
    r = { (openRound .auto s).roll with
      running := false, again := false, timeout := none, lanes := ⟨{}, {}⟩, map := r.map } ∧
      r.map.outcome = .opened ∧ r.map.number = s.roll.number + 1 := by
  let b := beginRound .auto s
  have hroll : b.roll = (openRound .auto s).roll := beginRound_roll .auto s
  have hlanes : b.roll.lanes = ⟨{ result := .ownPortDown }, { result := .ownPortDown }⟩ := by
    rw [hroll, openRound, he, hw]
    rfl
  have hcomplete : b.roll.complete = true := by
    rw [RollUnit.complete, hlanes]
    rfl
  have hagain : b.roll.again = false := (congrArg RollUnit.again hroll).trans ha
  let c : State := { b with roll := { b.roll with again := false } }
  have hend : autoTrigger s = closeRound c := by
    rw [autoTrigger_of_idle hr]
    refine (if_pos hcomplete).trans (if_neg ?_)
    rw [hagain]
    exact Bool.false_ne_true
  intro r
  have hr' : r = _ := (congrArg State.roll hend).trans (closeRound_roll c)
  rw [hr']
  refine ⟨?_, ?_, congrArg RollUnit.number hroll⟩
  · simp only [c, hroll]
  · simp only [roundRecord, c, hlanes]
    rfl

/-- What a trigger in IDLE makes of the roll unit, the again flag being clear (R151, R159). -/
theorem autoTrigger_starts (hr : s.roll.running = false) (ha : s.roll.again = false) :
    (autoTrigger s).roll.number = s.roll.number + 1 ∧ (autoTrigger s).roll.again = false ∧
      (autoTrigger s).roll.counters = { s.roll.counters with rounds := raise s.roll.counters.rounds } ∧
      (s.isDown .east = false ∨ s.isDown .west = false →
        (autoTrigger s).roll.running = true ∧ (autoTrigger s).roll.cause = .auto ∧
        (autoTrigger s).roll.map = s.roll.map ∧
        (autoTrigger s).roll.lanes = ⟨if s.isDown .east then { result := .ownPortDown } else {},
          if s.isDown .west then { result := .ownPortDown } else {}⟩ ∧
        (autoTrigger s).roll.timeout = some ⟨s.clock.timerUnits, s.cfg.profile.rollTimeout * 1000⟩) ∧
      (s.isDown .east = true → s.isDown .west = true →
        (autoTrigger s).roll.running = false ∧ (autoTrigger s).roll.timeout = none ∧
        (autoTrigger s).roll.map.outcome = .opened ∧ (autoTrigger s).roll.map.number = s.roll.number + 1) := by
  by_cases hdown : s.isDown .east = true ∧ s.isDown .west = true
  · obtain ⟨he, hw⟩ := hdown
    obtain ⟨hroll, houtcome, hnumber⟩ := autoTrigger_roll_of_down hr ha he hw
    refine ⟨congrArg RollUnit.number hroll, congrArg RollUnit.again hroll, congrArg RollUnit.counters hroll,
      fun hup => ?_, fun _ _ => ⟨congrArg RollUnit.running hroll, congrArg RollUnit.timeout hroll, houtcome, hnumber⟩⟩
    simp [he, hw] at hup
  · rw [autoTrigger_roll_of_up hr hdown]
    refine ⟨rfl, ha, rfl, fun _ => ⟨rfl, rfl, rfl, ?_, rfl⟩, fun he hw => absurd ⟨he, hw⟩ hdown⟩
    unfold openRound startLane
    cases s.isDown .east <;> cases s.isDown .west <;> rfl

end Rounds

end Sys2Proof.Machine
end

section
/-! ## Events that can change the ring state (R130, R132, R136, R137, R150) -/

namespace Sys2Proof.Machine

/-! ### Frames that the ring check unit does not see -/

/-- What leaves the loader, the ring check unit and the roll unit. -/
structure LeavesRing (s t : State) : Prop where
  loader : t.loader = s.loader
  check : t.check = s.check
  roll : t.roll = s.roll

namespace LeavesRing
variable {s t u : State}

theorem trans (h : LeavesRing s t) (g : LeavesRing t u) : LeavesRing s u :=
  ⟨g.loader.trans h.loader, g.check.trans h.check, g.roll.trans h.roll⟩

theorem crossedMark (p : RingPort) (c : Bool) (s : State) : LeavesRing s (crossedMark p c s) := by
  rw [crossedMark_eq]
  exact ⟨rfl, rfl, rfl⟩

theorem marked (p : RingPort) (k : Kind) (b : Buffer) (e : Bool) (s : State) : LeavesRing s (marked p k b e s) := by
  obtain ⟨ports, report, hu⟩ := marked_eq p k b e s
  rw [hu]
  exact ⟨rfl, rfl, rfl⟩

theorem clashFrame (b : Nat) (s : State) : LeavesRing s (clashFrame b s) := by
  obtain ⟨report, h⟩ := clashFrame_eq b s
  rw [h]
  exact ⟨rfl, rfl, rfl⟩

theorem sendOn (p : RingPort) (b : Nat) (c : Class) (candidate : Bool) (s : State) :
    LeavesRing s (sendOn p b c candidate s) := by
  obtain ⟨hsame, hroll, -⟩ := sendOn_rest p b c candidate s
  exact ⟨hsame.loader, hsame.check, hroll⟩

theorem deliver (p : RingPort) (b : Nat) (c : Class) (body : List Byte) (s : State) :
    LeavesRing s (deliver p b c body s) := by
  cases h : s.cfg.passes body
  · rw [deliver_blocks p b c h]
    exact ⟨rfl, rfl, rfl⟩
  · rw [deliver_passes p b c h]
    exact ⟨(SameBut.enqueue ..).loader, (SameBut.enqueue ..).check, enqueue_roll ..⟩

theorem dataTaken (p : RingPort) (h : Handed) (b : Buffer) (s : State) : LeavesRing s (dataTaken p h b s) := by
  obtain ⟨-, slots, report, ht⟩ | ⟨-, slots, report, ht⟩ | ⟨-, report, ht⟩ := dataTaken_cases p h b s <;> rw [ht]
  · exact ⟨(LeavesRing.deliver ..).loader, (LeavesRing.deliver ..).check, (LeavesRing.deliver ..).roll⟩
  · exact ⟨rfl, rfl, rfl⟩
  · exact ⟨rfl, rfl, rfl⟩

theorem timeTaken (b : Buffer) (a : Stamp) (s : State) : LeavesRing s (timeTaken b a s) := by
  obtain ⟨report, hr⟩ := requestVerdict_eq b.trailer a s
  unfold Machine.timeTaken
  dsimp only
  rw [hr]
  split <;> exact ⟨rfl, rfl, rfl⟩

/-- A peer frame concerns neither the ring check unit nor the rounds (R43 to R47). -/
theorem dispatch (p : RingPort) (h : Handed) (k : Kind) (b : Buffer) (e : Bool) (s : State) :
    LeavesRing s (dispatch p h k b e s) := by
  unfold Machine.dispatch
  cases k with
  | data =>
    rw [peerData_eq]
    exact (LeavesRing.dataTaken ..).trans (.sendOn ..)
  | time =>
    rw [peerTime_eq]
    exact (LeavesRing.timeTaken ..).trans (.sendOn ..)
  | check => exact .sendOn ..
  | roll => cases e <;> exact ⟨rfl, rfl, rfl⟩

end LeavesRing

/-- An own frame changes a lane, its CHECK frame having returned with the node's origin tag, or leaves the ring check
unit (R38, R40). -/
theorem ownFrame_cases (p : RingPort) (h : Handed) (k : Kind) (b : Buffer) (s : State) :
    LeavesRing s (ownFrame p h k b s) ∨
      ∃ e w, ownFrame p h k b s = release h.buf (tellLanes s.check (s.withLanes e w)) := by
  cases k with
  | check =>
    unfold ownFrame
    dsimp only
    split
    · rw [takeReturn_eq]
      exact .inr ⟨_, _, rfl⟩
    · exact .inl (.clashFrame ..)
  | roll => exact .inl ⟨rfl, rfl, rfl⟩
  | _ =>
    left
    rw [ownFrame_numbered (by simp)]
    split
    · exact ⟨rfl, rfl, rfl⟩
    · exact .clashFrame ..

/-- A frame that the ring filter takes changes a lane, after the mark of a crossed copy, or leaves the ring check unit
(R34). -/
theorem filterFrame_cases (p : RingPort) (h : Handed) (s : State) :
    LeavesRing s (filterFrame p h s) ∨
      ∃ c e w, filterFrame p h s = release h.buf (tellLanes s.check ((crossedMark p c s).withLanes e w)) := by
  let b := s.buffer h.buf
  cases hk : ringKind b with
  | none =>
    left
    rw [filterFrame_foreign hk, foreignFrame_eq]
    exact ⟨rfl, rfl, rfl⟩
  | some k =>
    have hmark := LeavesRing.crossedMark p (isCrossed p k b) s
    by_cases hfree : (admissionClass k b.trailer).threshold ≤ s.free
    · by_cases hsrc : b.trailer.source = s.node
      · rw [filterFrame_own hk hsrc hfree]
        obtain hleaves | ⟨e, w, hchange⟩ := ownFrame_cases p h k b (crossedMark p (isCrossed p k b) s)
        · exact .inl (hmark.trans hleaves)
        · rw [hmark.check] at hchange
          exact .inr ⟨_, e, w, hchange⟩
      · left
        rw [filterFrame_peer hk hsrc hfree]
        exact (LeavesRing.marked ..).trans (.dispatch ..)
    · left
      rw [filterFrame_refused hk (Nat.not_le.mp hfree)]
      obtain ⟨ports, report, he⟩ := refusedFrame_eq p h.buf (isCrossed p k b) s
      rw [he]
      exact ⟨rfl, rfl, rfl⟩

theorem noteIf_notices (c : Bool) (i : Item) (s : State) : (noteIf c i s).report.notices = s.report.notices := by
  cases c
  · rfl
  · exact (note_notices i s).1

theorem indEvent_notices (p : Port) (k : IndEvent) (s : State) :
    (indEvent p k s).report.notices = s.report.notices := by
  unfold indEvent
  split
  · rfl
  · exact noteIf_notices ..

theorem crossedMark_notices (p : RingPort) (c : Bool) (s : State) :
    (crossedMark p c s).report.notices = s.report.notices := by
  cases c
  · rfl
  · exact indEvent_notices ..

theorem crossedMark_tap (p : RingPort) (c : Bool) (s : State) : (crossedMark p c s).eg .tap = s.eg .tap := by
  rw [crossedMark_eq]
  rfl

theorem crossedMark_comesTo (p : RingPort) (c : Bool) (s : State) :
    ComesTo (crossedItems p c s) s (crossedMark p c s) := by
  obtain ⟨hclock, hpool⟩ : (crossedMark p c s).clock = s.clock ∧ (crossedMark p c s).pool = s.pool := by
    rw [crossedMark_eq]
    exact ⟨rfl, rfl⟩
  have hleaves := LeavesRing.crossedMark p c s
  exact
    { notes := crossedMark_notes p c s
      hold := (SameTimers.crossedMark p c s).hold
      notices := crossedMark_notices p c s
      loader := hleaves.loader
      clock := hclock
      roll := hleaves.roll
      free := Nat.le_of_eq (congrArg Pool.free hpool).symm
      tap := fun _ => crossedMark_tap p c s }

theorem mem_crossedItems {p : RingPort} {c : Bool} {s : State} {i : Item} (hi : i ∈ crossedItems p c s) :
    i = .port p.port := by
  unfold crossedItems at hi
  split at hi
  · exact List.mem_singleton.mp hi
  · cases hi

section Lanes
variable {items : List Item} {s w : State}

theorem ComesTo.refl (s : State) : ComesTo [] s s := ⟨.refl s, rfl, rfl, rfl, rfl, rfl, le_rfl, fun _ => rfl⟩

/-- New lanes are told of later: by themselves they note nothing (R137). -/
theorem ComesTo.withLanes (h : ComesTo items s w) (htap : w.eg .tap = s.eg .tap) (e l : CheckLane) :
    ComesTo items s (w.withLanes e l) :=
  have hlists : SameNotes (w.withLanes e l) w := ⟨rfl, rfl, rfl⟩
  { h with notes := hlists.trans h.notes, tap := fun _ => htap }

end Lanes

theorem ComesTo.of_handed {items : List Item} {q : PerRing (List Handed)} {s w : State}
    (h : ComesTo items { s with handed := q } w) : ComesTo items s w :=
  have hlists : SameNotes { s with handed := q } s := ⟨rfl, rfl, rfl⟩
  { h with notes := h.notes.trans (hlists.notes items) }

/-! ### What an event has done when it ends -/

/-- What follows the telling of the lanes: nothing that concerns the ring state, the roll unit, the report unit, the
ports or the tap port. -/
structure EndsAfter (s t : State) : Prop where
  loader : t.loader = s.loader
  ports : t.ports = s.ports
  roll : t.roll = s.roll
  report : t.report = s.report
  tap : t.eg .tap = s.eg .tap
  ring : t.check.ring = s.check.ring
  stateE : t.check.lanes.e.state = s.check.lanes.e.state
  stateW : t.check.lanes.w.state = s.check.lanes.w.state

/-- The new period's CHECK frame concerns the ring ports, the pool and the counts of lanes (R130, R131). -/
theorem beginPeriod_endsAfter (t : Option Timer) (s : State) : EndsAfter s (beginPeriod t s) := by
  let u : State := { s with check := { s.check with number := s.check.number + 1, period := t } }
  obtain ⟨hsame, hroll, hreport, heg⟩ := sendCheck_spec u
  have hcheck : (beginPeriod t s).check = { u.check with lanes := u.sentLanes } := hsame.check
  have hlanes : u.sentLanes.e.state = s.check.lanes.e.state ∧ u.sentLanes.w.state = s.check.lanes.w.state := by
    simp only [State.sentLanes, CheckLane.countSent_spec]
    exact ⟨rfl, rfl⟩
  exact
    { loader := hsame.loader, ports := hsame.ports, roll := hroll, report := hreport, tap := heg .tap (.inl rfl)
      ring := by rw [hcheck]
      stateE := (congrArg (fun c : RingCheck => c.lanes.e.state) hcheck).trans hlanes.1
      stateW := (congrArg (fun c : RingCheck => c.lanes.w.state) hcheck).trans hlanes.2 }

/-- What an event that began in `s` has done when it ends in `t`: nothing about the ring, or the telling of lanes. -/
inductive RingEvent (s t : State) : Prop
  | apart (h : LeavesRing s t)
  | told (ports : List Item) (w : State) (only : ∀ i ∈ ports, ∃ q, i = .port q) (comes : ComesTo ports s w)
      (ends : EndsAfter (tellLanes s.check w) t)

theorem exec_checkPeriodExpiry_ringEvent (s : State) :
    ∃ t, exec .checkPeriodExpiry s = .next (settle t) ∧ RingEvent s t := by
  cases hdue : s.clock.due s.check.period
  · exact ⟨_, exec_checkPeriodExpiry_of_not hdue, .apart ⟨rfl, rfl, rfl⟩⟩
  · exact ⟨_, exec_checkPeriodExpiry hdue, .told [] _ nofun ((ComesTo.refl s).withLanes rfl _ _)
      (beginPeriod_endsAfter ..)⟩

theorem exec_linkFall_ringEvent (p : Port) (s : State) :
    ∃ t, exec (.linkFall p) s = .next (settle t) ∧ RingEvent s t := by
  cases hd : s.isDown p
  · exact ⟨_, exec_linkFall hd, .told [.port p] _ (fun i hi => ⟨p, List.mem_singleton.mp hi⟩) (fallNoted_comesTo p s)
      ⟨rfl, rfl, rfl, rfl, rfl, rfl, rfl, rfl⟩⟩
  · exact ⟨_, exec_linkFall_of_down hd, .apart ⟨rfl, rfl, rfl⟩⟩

theorem exec_ringFilter_of_not {p : RingPort} {s : State} (h : s.member = false ∨ s.handed.get p = []) :
    exec (.ringFilter p) s = .next (settle s) := by
  simp only [exec, execRingFilter, finish]
  split
  · rfl
  · next hh =>
    rw [if_neg]
    simpa [hh] using h

theorem exec_ringFilter_ringEvent (p : RingPort) (s : State) :
    ∃ t, exec (.ringFilter p) s = .next (settle t) ∧ RingEvent s t := by
  cases hh : s.handed.get p with
  | nil => exact ⟨s, exec_ringFilter_of_not (.inr hh), .apart ⟨rfl, rfl, rfl⟩⟩
  | cons h rest =>
    cases hm : s.member
    · exact ⟨s, exec_ringFilter_of_not (.inl hm), .apart ⟨rfl, rfl, rfl⟩⟩
    · refine ⟨_, exec_ringFilter hm hh, ?_⟩
      let v : State := { s with handed := s.handed.set p rest }
      obtain ⟨hloader, hcheck, hroll⟩ | ⟨c, e, w, hchange⟩ := filterFrame_cases p h v
      · exact .apart ⟨hloader, hcheck, hroll⟩
      · rw [hchange]
        exact .told _ _ (fun i hi => ⟨p.port, mem_crossedItems hi⟩)
          ((crossedMark_comesTo p c v).withLanes (crossedMark_tap p c v) e w).of_handed
          ⟨rfl, rfl, rfl, rfl, rfl, rfl, rfl, rfl⟩

/-! ### What such an event has told and triggered (R137, R150, R185) -/

section Told
variable {items : List Item} {s t w : State}

/-- The ring is the last item noted where its state changed. -/
theorem toldNotes_ne_nil (hr : w.check.ring ≠ s.check.ring) (hn : w.loader.nodeState ≠ .reset) :
    (toldNotes s w).report.changes ≠ [] := by
  unfold toldNotes RingCheck.changedItems
  rw [if_neg hr, List.foldl_append]
  refine note_changes_ne_nil .ring ?_
  rwa [(foldl_note_sameBut ..).loader]

/-- A change of the ring state with auto-roll set is noted, a report that is called for is composed, and the trigger
acts (R137, R150, log 12). -/
theorem ComesTo.triggers (h : ComesTo items s w) (hr : w.check.ring ≠ s.check.ring) (ha : s.cfg.autoRoll = true) :
    tellLanes s.check w = autoTrigger (reportService (toldNotes s w)) :=
  tellLanes_eq_trigger _ hr (by rwa [h.cfg])

/-- The lanes and the ring stay as they are while they are told of. -/
theorem EndsAfter.check (h : EndsAfter (tellLanes s.check w) t) :
    t.check.ring = w.check.ring ∧ t.check.lanes.e.state = w.check.lanes.e.state ∧
      t.check.lanes.w.state = w.check.lanes.w.state := by
  have hcheck := (SameBut.tellLanes s.check w).check
  exact ⟨h.ring.trans (congrArg RingCheck.ring hcheck),
    h.stateE.trans (congrArg (fun c : RingCheck => c.lanes.e.state) hcheck),
    h.stateW.trans (congrArg (fun c : RingCheck => c.lanes.w.state) hcheck)⟩

theorem EndsAfter.changedItems (h : EndsAfter (tellLanes s.check w) t) :
    s.check.changedItems t.check = s.check.changedItems w.check := by
  obtain ⟨hring, he, hw⟩ := h.check
  simp only [RingCheck.changedItems, hring, he, hw]

theorem RingEvent.loader (h : RingEvent s t) : t.loader = s.loader := by
  cases h with
  | apart h => exact h.loader
  | told ports w only comes ends => exact ends.loader.trans ((SameBut.tellLanes ..).loader.trans comes.loader)

/-- Without a change of the ring state, or with auto-roll off, the roll unit takes no part (R150). -/
theorem RingEvent.roll (h : RingEvent s t) (hq : t.check.ring = s.check.ring ∨ s.cfg.autoRoll = false) :
    t.roll = s.roll := by
  cases h with
  | apart h => exact h.roll
  | told ports w only comes ends =>
    rw [ends.check.1] at hq
    rw [ends.roll, comes.tellLanes_eq hq]
    exact comes.told.roll

/-- What a node report before the trigger carries is read at the state that the event's notes left (R186, R187). -/
theorem ComesTo.carries (h : ComesTo items s w) (hr : w.check.ring ≠ s.check.ring) {carried : Prop} [Decidable carried]
    (hc : carried ↔ s.member = true ∧ s.report.hold = none ∧ s.report.notices = [] ∧ 49 ≤ (toldNotes s w).free) :
    SameNotes (reportService (toldNotes s w)) ((toldNotes s w).listCarried carried) := by
  have htold := h.told
  refine reportService_notes (by rwa [htold.member, htold.hold, htold.notices]) fun hm => ?_
  rw [htold.member, ← h.member] at hm
  exact toldNotes_ne_nil hr fun hn => by simp [State.member, hn] at hm

end Told

end Sys2Proof.Machine

open Sys2Proof Sys2Proof.Machine

/-- Settles O50: an event that changes the ring state has told of its lanes, and what it told, reported and triggered
are read in that order. -/
theorem ringChangesStartRounds : Obligations.RingChangesStartRounds := by
  intro c s hc
  obtain ⟨t, hexec, hevent⟩ : ∃ t, exec c s = .next (settle t) ∧ RingEvent s t := by
    obtain rfl | ⟨p, rfl⟩ | ⟨p, rfl⟩ := hc
    · exact exec_checkPeriodExpiry_ringEvent s
    · exact exec_linkFall_ringEvent p s
    · exact exec_ringFilter_ringEvent p s
  refine ⟨t, hexec, hevent.loader, hevent.roll, fun hr ha => ?_⟩
  cases hevent with
  | apart h => exact absurd (congrArg RingCheck.ring h.check) hr
  | told ports w only comes ends =>
    obtain ⟨hring, he, hw⟩ := ends.check
    have hwring : w.check.ring ≠ s.check.ring := by rwa [← hring]
    have hitems := ends.changedItems
    rw [comes.triggers hwring ha] at ends
    have htold := comes.told
    have hnotes : SameBut w (toldNotes s w) := foldl_note_sameBut ..
    let u := toldNotes s w
    let v := reportService u
    have hserve : SameBut u v := .reportService u
    have hports : u.ports = t.ports := by
      rw [ends.ports, (SameBut.autoTrigger v).ports, hserve.ports]
    have hroll : v.roll = s.roll := (reportService_roll u).trans htold.roll
    have hclock : v.clock = s.clock := hserve.clock.trans htold.clock
    have hcfg : v.cfg = s.cfg := congrArg (fun l : Loader => l.config.getD {}) (hserve.loader.trans htold.loader)
    have hdown (p : Port) : v.isDown p = t.isDown p := by
      simp only [State.isDown, State.port, hserve.ports, hports]
    obtain ⟨htap, hlist⟩ := autoTrigger_lists v
    refine ⟨fun hrun => ?_, fun hidle hagain => ?_, u, ports, only, hitems ▸ htold.noted, htold.hold, htold.notices,
      htold.loader, htold.clock, hports, htold.roll, ?_, ?_, ?_, htold.free, htold.tap ?_, fun hdue => ?_, ?_⟩
    · rw [ends.roll, autoTrigger_of_running (s := v) (by rwa [hroll]), hroll]
    · have hstarts := autoTrigger_starts (s := v) (by rwa [hroll]) (by rwa [hroll])
      rw [← ends.roll, hroll, hclock, hcfg, hdown, hdown] at hstarts
      exact hstarts
    · rw [hring]
      exact congrArg RingCheck.ring hnotes.check
    · rw [he]
      exact congrArg (fun c : RingCheck => c.lanes.e.state) hnotes.check
    · rw [hw]
      exact congrArg (fun c : RingCheck => c.lanes.w.state) hnotes.check
    · rwa [hnotes.check]
    · rw [ends.tap, settle_of_not_restart hdue]
      exact htap
    · intro carried left
      rw [hroll] at hlist
      have hends : SameNotes t (autoTrigger v) :=
        ⟨congrArg Loader.nodeState ends.loader, congrArg ReportUnit.changes ends.report,
          congrArg ReportUnit.more ends.report⟩
      exact .of_sameNotes (hends.trans (hlist.trans ((comes.carries hwring (carried := carried) .rfl).notes _)))
end

section
/-! ## What the roll unit keeps (R148, R149, R151, R161) -/

namespace Sys2Proof.Machine

theorem startLane_law (ownPortDown : Bool) : (startLane ownPortDown).Law := ⟨Nat.zero_le _, fun _ => ⟨rfl, rfl⟩⟩

namespace State.RollLaw
variable {s t : State}

/-- The law is about the roll unit alone. -/
theorem of_roll (h : s.RollLaw) (hroll : t.roll = s.roll) : t.RollLaw := by
  unfold State.RollLaw
  rw [hroll]
  exact h

theorem started (hroll : t.roll = {}) : t.RollLaw := by
  unfold State.RollLaw
  rw [hroll]
  exact ⟨nofun, fun _ => ⟨rfl, rfl, rfl⟩, startLane_law false, startLane_law false, startLane_law false,
    startLane_law false⟩

/-- An update of the roll unit keeps its law: a round's end takes its lanes into the ring map, and the others put
lawful lanes in place in a RUNNING round alone. -/
theorem step (h : s.RollLaw) {r : RollUnit} (hs : RollStep s.roll r) : ({ s with roll := r } : State).RollLaw := by
  obtain ⟨hrun, hidle, he, hw, hmap⟩ := h
  cases hs with
  | counters => exact ⟨hrun, hidle, he, hw, hmap⟩
  | again hr => exact ⟨hrun, fun hi => absurd (hr.symm.trans hi) nofun, he, hw, hmap⟩
  | clear =>
    refine ⟨hrun, fun hi => ?_, he, hw, hmap⟩
    obtain ⟨htimeout, -, hlanes⟩ := hidle hi
    exact ⟨htimeout, rfl, hlanes⟩
  | opens => exact ⟨fun _ => rfl, nofun, startLane_law _, startLane_law _, hmap⟩
  | closes m hm ha => exact ⟨nofun, fun _ => ⟨rfl, ha, rfl⟩, startLane_law false, startLane_law false, hm ▸ ⟨he, hw⟩⟩
  | halts => exact ⟨nofun, fun _ => ⟨rfl, rfl, rfl⟩, startLane_law false, startLane_law false, hmap⟩
  | lanes l hr hle hlw =>
    exact ⟨hrun, fun hi => absurd (hr.symm.trans hi) nofun, hle.elim (· ▸ he) id, hlw.elim (· ▸ hw) id, hmap⟩

end State.RollLaw

/-- The updates that commands are made of keep the roll unit's law. -/
theorem rollLaw_kept : Kept State.RollLaw where
  roll := fun _ _ hs h => h.step hs
  startRepeat := fun s out h => by
    unfold startRepeat
    split
    · exact h
    · split <;> exact h
  repeatDone := by intros; assumption
  repeatTake := by intros; assumption
  giant := fun s p h => by rw [dropReception_eq]; exact h
  endError := fun s p o _ h => by rw [dropReception_eq]; exact h
  endIntact := by intros; assumption
  repeatLoses := by intros; assumption
  repeatJoins := by intros; assumption
  fallen := fun s p _ h => by rw [fallen_eq]; exact h
  zero := by intros; assumption
  start := fun s c _ => by
    obtain ⟨-, -, -, -, -, -, -, -, -, -, -, -, -, -, hroll, -⟩ := takeStart_started c s
    exact .started hroll
  enter := by intros; assumption
  begins := by intros; assumption
  retry := by intros; assumption
  decides := by intros; assumption
  transit := by intros; assumption
  fix := by intros; assumption

end Sys2Proof.Machine

open Sys2Proof Sys2Proof.Machine

/-- Settles O47: the law is an invariant of the updates of the roll unit that commands are made of. -/
theorem theRollUnitKeepsItsLaw : Obligations.TheRollUnitKeepsItsLaw := by
  intro s t h hstep
  obtain ⟨u, hu, hlaw⟩ := rollLaw_kept.step (fun _ _ h => h) (fun _ h => h) h
  rw [hstep] at hu
  cases hu
  exact hlaw
end

section
/-! ## ROLL and HALT-ROLL (R149, R151, R162) -/

namespace Sys2Proof.Machine

/-! ### Notices (R186) -/

/-- The command queue is as it was, and these notices joined the notice list where there was room for them all
(R186). -/
structure Notified (l : List Notice) (a b : ReportUnit) : Prop where
  queue : b.queue = a.queue
  held : a.notices.length + l.length ≤ 4 → b.notices = a.notices ++ l ∧ b.counters = a.counters

theorem Notified.trans {l m : List Notice} {a b c : ReportUnit} (h : Notified l a b) (g : Notified m b c) :
    Notified (l ++ m) a c := by
  refine ⟨g.queue.trans h.queue, fun hroom => ?_⟩
  rw [List.length_append] at hroom
  obtain ⟨hn, hc⟩ := h.held (by omega)
  obtain ⟨gn, gc⟩ := g.held (by rw [hn, List.length_append]; omega)
  exact ⟨by rw [gn, hn, List.append_assoc], gc.trans hc⟩

theorem note_queue (i : Item) (s : State) : (note i s).report.queue = s.report.queue := by
  obtain h | ⟨-, -, h⟩ | ⟨-, -, h⟩ := note_cases i s <;> rw [h]

/-- What the start or end of a round tells: one notice joins the list, and the roll is noted. -/
theorem notified_note_addNotice (n : Notice) {r : ReportUnit} {s : State} (hr : s.report = r) :
    Notified [n] r (note .roll (addNotice n s)).report := by
  subst hr
  obtain ⟨hnotices, hcounters⟩ := note_notices .roll (addNotice n s)
  refine ⟨(note_queue ..).trans ?_, fun hroom => ?_⟩
  · unfold addNotice
    split <;> rfl
  · rw [hnotices, hcounters, addNotice, if_pos (Nat.lt_of_succ_le hroom)]
    exact ⟨rfl, rfl⟩

/-- With 4 notices held the one of a round's start or end is dropped (R186). -/
theorem note_addNotice_full (n : Notice) {r : ReportUnit} {s : State} (hr : s.report = r)
    (hfull : 4 ≤ r.notices.length) :
    (note .roll (addNotice n s)).report.notices = r.notices ∧
      (note .roll (addNotice n s)).report.counters =
        { r.counters with noticeDrop := raise r.counters.noticeDrop } := by
  subst hr
  obtain ⟨hnotices, hcounters⟩ := note_notices .roll (addNotice n s)
  rw [hnotices, hcounters, addNotice, if_neg (Nat.not_lt.mpr hfull)]
  exact ⟨rfl, rfl⟩

/-! ### The notices of a round -/

section Rounds
variable {s : State}

/-- What the start of a round tells of a lane (R151, R152; `laneSend_openedRoll`). -/
def State.laneTold (s : State) (p : Port) : LaneSend :=
  if s.isDown p then .ownPortDown else if s.free = 0 then .refused else .sent

theorem State.laneTold_of_down {p : Port} (hp : s.isDown p = true) : s.laneTold p = .ownPortDown := if_pos hp

/-- The start of a round tells each lane's send (R151). -/
theorem beginRound_notified (cause : RollCause) (s : State) :
    Notified [.begins (s.roll.number + 1) cause (s.laneTold .east) (s.laneTold .west)]
      s.report (beginRound cause s).report := by
  rw [beginRound_eq, laneSend_openedRoll cause (.inl rfl), laneSend_openedRoll cause (.inr rfl)]
  exact notified_note_addNotice _ (openedRoll_report cause s)

/-- The end of a round tells its outcome and its two ends (R161). -/
theorem closeRound_notified (s : State) :
    Notified [.ends s.roll.number (roundRecord s).outcome (roundRecord s).eastEnd (roundRecord s).westEnd]
      s.report (closeRound s).report :=
  notified_note_addNotice _ rfl

theorem endRound_of_clear (ha : s.roll.again = false) : endRound s = closeRound s := by
  have hclear : ({ s with roll := { s.roll with again := false } } : State) = s := by rw [← ha]
  unfold endRound
  rw [hclear, ha]
  rfl

/-! ### Rounds that start with a ring port not DOWN, or with both DOWN (R151) -/

theorem beginRound_not_complete (cause : RollCause) (hup : ¬ (s.isDown .east = true ∧ s.isDown .west = true)) :
    ¬ (beginRound cause s).roll.complete = true := by
  rw [beginRound_roll, openRound_not_complete cause hup]
  exact Bool.false_ne_true

theorem startRound_of_up (cause : RollCause) (hup : ¬ (s.isDown .east = true ∧ s.isDown .west = true)) :
    startRound cause s = beginRound cause s := if_neg (beginRound_not_complete cause hup)

/-- The lanes of a round that starts with both ring ports DOWN. -/
def localLanes : PerLane RollLane := ⟨{ result := .ownPortDown }, { result := .ownPortDown }⟩

theorem beginRound_roll_of_down (cause : RollCause) (he : s.isDown .east = true) (hw : s.isDown .west = true) :
    (beginRound cause s).roll = { (openRound cause s).roll with lanes := localLanes } := by
  rw [beginRound_roll, openRound, he, hw]
  rfl

theorem beginRound_complete_of_down (cause : RollCause) (he : s.isDown .east = true) (hw : s.isDown .west = true) :
    (beginRound cause s).roll.complete = true := by
  rw [beginRound_roll_of_down cause he hw]
  rfl

theorem startRound_of_down (cause : RollCause) (ha : s.roll.again = false) (he : s.isDown .east = true)
    (hw : s.isDown .west = true) : startRound cause s = closeRound (beginRound cause s) := by
  refine (if_pos (beginRound_complete_of_down cause he hw)).trans (endRound_of_clear ?_)
  rw [beginRound_roll]
  exact ha

/-- What a round with both lanes LOCAL leaves in the ring map: outcome OPEN, and this node at both ends (R159, R160). -/
def localRecord (s : State) : RingMap where
  outcome := .opened
  number := s.roll.number + 1
  endTime := s.clock.nodeTime
  lanes := localLanes
  eastEnd := some (s.node.setWidth 8)
  westEnd := some (s.node.setWidth 8)

theorem SameBut.node {s t : State} (h : SameBut s t) : t.node = s.node := by
  simp only [State.node, State.cfg, h.loader]

theorem roundRecord_beginRound_of_down (cause : RollCause) (he : s.isDown .east = true)
    (hw : s.isDown .west = true) : roundRecord (beginRound cause s) = localRecord s := by
  have hsame := SameBut.beginRound cause s
  unfold roundRecord
  rw [beginRound_roll_of_down cause he hw, hsame.clock, hsame.node]
  rfl

/-- A round that starts with both ring ports DOWN, whole: it is over at once (R151, R159 to R161). -/
theorem closeRound_beginRound_roll (cause : RollCause) (he : s.isDown .east = true) (hw : s.isDown .west = true) :
    (closeRound (beginRound cause s)).roll = { (openRound cause s).roll with
      running := false, timeout := none, lanes := ⟨{}, {}⟩, map := localRecord s } := by
  rw [closeRound_roll, roundRecord_beginRound_of_down cause he hw, beginRound_roll]

/-- Its two notices tell that both lanes were LOCAL, and that this node is both ends (R151, R161). -/
theorem closeRound_beginRound_notified (cause : RollCause) (he : s.isDown .east = true)
    (hw : s.isDown .west = true) :
    Notified [.begins (s.roll.number + 1) cause .ownPortDown .ownPortDown,
      .ends (s.roll.number + 1) .opened (some (s.node.setWidth 8)) (some (s.node.setWidth 8))]
      s.report (closeRound (beginRound cause s)).report := by
  have hbegin := beginRound_notified cause s
  have hclose := closeRound_notified (beginRound cause s)
  rw [s.laneTold_of_down he, s.laneTold_of_down hw] at hbegin
  rw [roundRecord_beginRound_of_down cause he hw, beginRound_roll] at hclose
  exact hbegin.trans hclose

/-! ### HALT-ROLL (R162) -/

theorem haltRound_of_idle (hr : s.roll.running = false) : haltRound s = s :=
  if_neg (by rw [hr]; exact Bool.false_ne_true)

/-- A halted round is told and noted. -/
theorem haltRound_of_running (hr : s.roll.running = true) : haltRound s =
    note .roll (addNotice (.ends s.roll.number .aborted none none)
      { s with roll := { s.roll with
        running := false, timeout := none, lanes := ⟨{}, {}⟩, again := false
        counters := { s.roll.counters with aborted := raise s.roll.counters.aborted } } }) := if_pos hr

theorem haltRound_notified (hr : s.roll.running = true) :
    Notified [.ends s.roll.number .aborted none none] s.report (haltRound s).report := by
  rw [haltRound_of_running hr]
  exact notified_note_addNotice _ rfl

theorem SameBut.haltRound (s : State) : SameBut s (haltRound s) := by
  cases hr : s.roll.running
  · rw [haltRound_of_idle hr]
    exact .refl s
  · rw [haltRound_of_running hr]
    exact ((SameBut.parts s s.report s.pool s.egress _).trans (.addNotice _ _)).trans (.note .roll _)

end Rounds

/-! ### The two commands -/

theorem exec_roll (s : State) : exec .roll s =
    carryOut (fun c => c == 2) (fun t => if t.roll.running then t else startRound .command t)
      (fun t => if t.roll.running then .busy else .done) s := rfl

theorem exec_haltRoll (s : State) : exec .haltRoll s = carryOut (fun c => c == 3) haltRound (fun _ => .done) s := rfl

section Commands
variable {s : State} {k : Command} {rest : List Command} (hq : s.report.queue = k :: rest) (hr : k.result = none)
include hq hr

theorem exec_roll_of_running (hc : k.code = 2) (hrun : s.roll.running = true) : exec .roll s =
    .next (settle (composeReply { s with
      report := { s.report with queue := { k with result := some .busy } :: rest } })) := by
  rw [exec_roll, carryOut_eq hq hr (by simp [hc]) (by rw [if_pos hrun]), if_pos hrun, if_pos hrun]

theorem exec_roll_of_idle (hc : k.code = 2) (hrun : s.roll.running = false) {t : State}
    (ht : startRound .command s = t) (hqueue : t.report.queue = s.report.queue) : exec .roll s =
    .next (settle (composeReply { t with
      report := { t.report with queue := { k with result := some .done } :: rest } })) := by
  have hidle : ¬ s.roll.running = true := by rw [hrun]; exact Bool.false_ne_true
  rw [exec_roll, carryOut_eq hq hr (by simp [hc]) (by rw [if_neg hidle, ht, hqueue]), if_neg hidle, if_neg hidle, ht]

theorem exec_haltRoll_of_head (hc : k.code = 3) (hqueue : (haltRound s).report.queue = s.report.queue) :
    exec .haltRoll s = .next (settle (composeReply { haltRound s with
      report := { (haltRound s).report with queue := { k with result := some .done } :: rest } })) := by
  rw [exec_haltRoll, carryOut_eq hq hr (by simp [hc]) hqueue]

end Commands

end Sys2Proof.Machine

open Sys2Proof Sys2Proof.Machine

/-- Settles O49: the head is carried out with a round's start, with a start that ends at once, with a halt, or with
nothing. -/
theorem rollCommandsStartAndHaltRounds : Obligations.RollCommandsStartAndHaltRounds := by
  intro k rest s hq hr answered
  refine ⟨fun hc hrun => exec_roll_of_running hq hr hc hrun, fun hc hrun hup => ?_, fun hc hrun ha he hw => ?_,
    fun hc hrun hroom => ?_, fun hc hrun => ?_⟩
  · have hstart : startRound .command s = beginRound .command s :=
      startRound_of_up .command (by rintro ⟨he, hw⟩; simp [he, hw] at hup)
    exact exec_roll_of_idle hq hr hc hrun hstart (beginRound_notified .command s).queue
  · have hround := closeRound_beginRound_roll .command he hw
    have htold := closeRound_beginRound_notified .command he hw
    have hsame := (SameBut.beginRound .command s).trans (.closeRound _)
    obtain ⟨-, hegress⟩ := (beginRound_sendsNothing .command ⟨he, hw⟩).trans (closeRound_sendsNothing _)
    refine ⟨_, exec_roll_of_idle hq hr hc hrun (startRound_of_down .command ha he hw) htold.queue, hsame.ports,
      hsame.tagger, hegress, ?_⟩
    rw [hround]
    exact ⟨rfl, rfl, rfl, rfl, rfl, rfl, rfl, rfl, rfl, fun hroom => (htold.held (Nat.add_le_add_right
      (Nat.le_of_lt_succ hroom) 2)).1⟩
  · have htold := haltRound_notified hrun
    refine ⟨haltRound s, exec_haltRoll_of_head hq hr hc htold.queue, (SameBut.haltRound s).ports, ?_,
      (htold.held hroom).1⟩
    rw [haltRound_of_running hrun, roll_kept_note, addNotice_roll]
  · have hhalt := haltRound_of_idle hrun
    rw [exec_haltRoll_of_head hq hr hc (by rw [hhalt]), hhalt]
end

section
/-! ## Own rolls and the ends of rounds (R156 to R161) -/

namespace Sys2Proof.Machine

/-! ### The outcome (R159, R160) -/

section Outcome
variable {e w : RollLane}

theorem roundOutcome_of_timeout (h : e.result = .timeout ∨ w.result = .timeout) : roundOutcome e w = .incomplete :=
  if_pos h

theorem roundOutcome_of_returned (he : e.result = .returned) (hw : w.result = .returned) : roundOutcome e w =
    if (e.entries.map RollEntry.number).reverse = w.entries.map RollEntry.number then .closed else .mismatch := by
  simp only [roundOutcome, he, hw, reduceCtorEq, or_self, and_self, if_true, if_false]

theorem roundOutcome_of_open (he : e.result = .turned ∨ e.result = .ownPortDown)
    (hw : w.result = .turned ∨ w.result = .ownPortDown) : roundOutcome e w = .opened := by
  obtain he | he := he <;> obtain hw | hw := hw <;> simp [roundOutcome, he, hw]

theorem roundOutcome_of_changed (h : e.result = .returned ∧ (w.result = .turned ∨ w.result = .ownPortDown) ∨
    w.result = .returned ∧ (e.result = .turned ∨ e.result = .ownPortDown)) : roundOutcome e w = .changed := by
  obtain ⟨hr, ho | ho⟩ | ⟨hr, ho | ho⟩ := h <;> simp [roundOutcome, hr, ho]

theorem listEnd_eq (l : RollLane) (node : Byte) :
    listEnd l node = (l.entries.getLast?.map RollEntry.number).getD node := by
  unfold listEnd
  cases l.entries.getLast? <;> rfl

end Outcome

/-! ### The end of a round and the next one (R160, R161) -/

section Rounds
variable {s : State}

/-- The state with the round closed and the again flag cleared by the reading: where the next round starts (R161). -/
def State.roundClosed (s : State) : State := closeRound { s with roll := { s.roll with again := false } }

theorem endRound_of_again (ha : s.roll.again = true) : endRound s = startLastRound .again s.roundClosed := if_pos ha

theorem State.roundClosed_sameBut (s : State) : SameBut s s.roundClosed :=
  (SameBut.parts s s.report s.pool s.egress _).trans (.closeRound _)

theorem State.roundClosed_sendsNothing (s : State) : SendsNothing s s.roundClosed :=
  closeRound_sendsNothing { s with roll := { s.roll with again := false } }

theorem State.roundClosed_roll (s : State) : s.roundClosed.roll = { s.roll with
    running := false, again := false, timeout := none, lanes := ⟨{}, {}⟩, map := roundRecord s } := closeRound_roll _

theorem State.roundClosed_notified (s : State) :
    Notified [.ends s.roll.number (roundRecord s).outcome (roundRecord s).eastEnd (roundRecord s).westEnd]
      s.report s.roundClosed.report := closeRound_notified { s with roll := { s.roll with again := false } }

/-- The round that starts where another one was closed (R151). -/
theorem openRound_roundClosed_roll (cause : RollCause) (s : State) :
    (openRound cause s.roundClosed).roll = { s.roll with
      running := true
      again := false
      cause := cause
      number := s.roll.number + 1
      lanes := ⟨startLane (s.isDown .east), startLane (s.isDown .west)⟩
      timeout := some (s.clock.timer (s.cfg.profile.rollTimeout * 1000))
      map := roundRecord s
      counters := { s.roll.counters with rounds := raise s.roll.counters.rounds } } := by
  have hsame := s.roundClosed_sameBut
  simp only [openRound, State.cfg, hsame.isDown, hsame.clock, hsame.loader, s.roundClosed_roll]

theorem startLastRound_of_up (cause : RollCause) (hup : ¬ (s.isDown .east = true ∧ s.isDown .west = true)) :
    startLastRound cause s = beginRound cause s := if_neg (beginRound_not_complete cause hup)

theorem startLastRound_of_down (cause : RollCause) (he : s.isDown .east = true) (hw : s.isDown .west = true) :
    startLastRound cause s = closeRound (beginRound cause s) := if_pos (beginRound_complete_of_down cause he hw)

/-- With the again flag set and a ring port not DOWN, the next round runs when the last one is over (R161). -/
theorem endRound_again_of_up (ha : s.roll.again = true) (hup : ¬ (s.isDown .east = true ∧ s.isDown .west = true)) :
    (endRound s).roll = (openRound .again s.roundClosed).roll ∧
      Notified [.ends s.roll.number (roundRecord s).outcome (roundRecord s).eastEnd (roundRecord s).westEnd,
        .begins (s.roll.number + 1) .again (s.laneTold .east) (s.laneTold .west)]
        s.report (endRound s).report := by
  have hsame := s.roundClosed_sameBut
  have hfree : s.roundClosed.free = s.free := congrArg Pool.free s.roundClosed_sendsNothing.1
  have hbegin := beginRound_notified .again s.roundClosed
  simp only [State.laneTold, hsame.isDown, hfree, s.roundClosed_roll] at hbegin
  rw [endRound_of_again ha, startLastRound_of_up .again (by rwa [hsame.isDown, hsame.isDown]), beginRound_roll]
  exact ⟨rfl, s.roundClosed_notified.trans hbegin⟩

/-- With both ring ports DOWN the next round is over at once too, with outcome OPEN (R151, R161; log 31). -/
theorem endRound_again_of_down (ha : s.roll.again = true) (he : s.isDown .east = true) (hw : s.isDown .west = true) :
    (endRound s).roll = { (openRound .again s.roundClosed).roll with
      running := false, timeout := none, lanes := ⟨{}, {}⟩, map := localRecord s } ∧
      Notified [.ends s.roll.number (roundRecord s).outcome (roundRecord s).eastEnd (roundRecord s).westEnd,
        .begins (s.roll.number + 1) .again .ownPortDown .ownPortDown,
        .ends (s.roll.number + 1) .opened (some (s.node.setWidth 8)) (some (s.node.setWidth 8))]
        s.report (endRound s).report := by
  have hsame := s.roundClosed_sameBut
  have hec := (hsame.isDown .east).trans he
  have hwc := (hsame.isDown .west).trans hw
  have hrecord : localRecord s.roundClosed = localRecord s := by
    simp only [localRecord, hsame.node, hsame.clock, s.roundClosed_roll]
  have hnext := closeRound_beginRound_notified .again hec hwc
  rw [hsame.node, s.roundClosed_roll] at hnext
  rw [endRound_of_again ha, startLastRound_of_down .again hec hwc]
  exact ⟨hrecord ▸ closeRound_beginRound_roll .again hec hwc, s.roundClosed_notified.trans hnext⟩

theorem startLane_eq (ownPortDown : Bool) :
    startLane ownPortDown = if ownPortDown then { result := .ownPortDown } else {} := by cases ownPortDown <;> rfl

/-- The reading of the again flag clears it, and the round that it starts leaves it clear (R161; log 31). -/
theorem endRound_again (s : State) : (endRound s).roll.again = false := by
  cases ha : s.roll.again
  · rw [endRound_of_clear ha, closeRound_again, ha]
  · by_cases hdown : s.isDown .east = true ∧ s.isDown .west = true
    · obtain ⟨he, hw⟩ := hdown
      rw [(endRound_again_of_down ha he hw).1, openRound_roundClosed_roll]
    · rw [(endRound_again_of_up ha hdown).1, openRound_roundClosed_roll]

/-- The end of a round notes the roll (R161). -/
theorem endRound_noted (hn : s.loader.nodeState ≠ .reset) :
    .roll ∈ (endRound s).report.changes ∨ (endRound s).report.more = true := by
  have hnotes := (endRound_notesRoll s).notes
  rw [hnotes.changes, hnotes.more]
  exact mem_note .roll hn

end Rounds

/-! ### Rolls handed over (R156, R157) -/

/-- The first that `c` picks, and the others in their order. -/
theorem takeFirst_append {α : Type} {c : α → Bool} {before : List α} (hb : ∀ x ∈ before, c x = false) {a : α}
    (ha : c a = true) (after : List α) : takeFirst c (before ++ a :: after) = some (a, before ++ after) := by
  induction before with
  | nil => exact if_pos ha
  | cons x before ih =>
    obtain ⟨hx, hrest⟩ := List.forall_mem_cons.mp hb
    rw [List.cons_append, takeFirst, hx, ih hrest]
    rfl

theorem isLateRoll_iff (t : Trailer) (s : State) : isLateRoll t s = true ↔
    s.roll.running = false ∨ t.epoch ≠ s.loader.ownEpoch ∨ t.seq.setWidth 8 ≠ s.roll.number := by
  simp [isLateRoll, or_assoc]

theorem rollListFits_iff (f : List Byte) :
    rollListFits f = true ↔ rollCount f ≤ 62 ∧ 18 + 4 * rollCount f ≤ f.length := by
  simp [rollListFits]

/-- A roll fits its OPEN lane at the port where the lane's rolls come home: its own port when turned, else the other
one (R157). -/
theorem rollResult_eq (x : Lane) (turned : Bool) (p : RingPort) (before : LaneResult) :
    rollResult x turned p before =
      if before = .unresolved ∧ (turned = true → p = x.ownPort) ∧ (turned = false → p = x.ownPort.opposite)
      then some (if turned then .turned else .returned) else none := by
  unfold rollResult
  by_cases hb : before = .unresolved
  · cases turned <;> simp [hb]
  · simp [hb]

/-- A lane's result completes the round when the other lane has one (R159). -/
theorem RollUnit.complete_set {r : RollUnit} {x : Lane} {l : RollLane} (hl : l.result ≠ .unresolved) :
    RollUnit.complete { r with lanes := r.lanes.set x l } = true ↔ (r.lanes.get x.other).result ≠ .unresolved := by
  cases x <;> simp [RollUnit.complete, PerLane.set, PerLane.get, Lane.other, hl]

section Taken
variable {p : RingPort} {buf : Nat} {t : Trailer} {body : List Byte} {s : State}

/-- The lanes with the result of a roll of the present round that came home (R157). -/
def lanesTaken (t : Trailer) (body : List Byte) (s : State) : PerLane RollLane :=
  s.roll.lanes.set t.lane
    { result := if rollTurned body then .turned else .returned, entries := rollEntries body, full := rollFull body }

theorem takeRoll_stray (h : ¬ ((s.roll.lanes.get t.lane).result = .unresolved ∧
    (rollTurned body = true → p = t.lane.ownPort) ∧ (rollTurned body = false → p = t.lane.ownPort.opposite))) :
    takeRoll p buf t body s = discardRoll buf (fun k => { k with stray := raise k.stray }) s := by
  rw [takeRoll, rollResult_eq, if_neg h]

theorem takeRoll_home (h : (s.roll.lanes.get t.lane).result = .unresolved ∧
    (rollTurned body = true → p = t.lane.ownPort) ∧ (rollTurned body = false → p = t.lane.ownPort.opposite)) :
    let u := release buf { s with roll := { s.roll with lanes := lanesTaken t body s } }
    takeRoll p buf t body s = if (s.roll.lanes.get t.lane.other).result = .unresolved then u else endRound u := by
  intro u
  have hresult : (if rollTurned body then LaneResult.turned else .returned) ≠ .unresolved := by
    split <;> exact nofun
  have hcomplete : u.roll.complete = true ↔ (s.roll.lanes.get t.lane.other).result ≠ .unresolved :=
    RollUnit.complete_set hresult
  rw [takeRoll, rollResult_eq, if_pos h]
  by_cases ho : (s.roll.lanes.get t.lane.other).result = .unresolved
  · rw [if_pos ho]
    exact if_neg fun hc => hcomplete.mp hc ho
  · rw [if_neg ho]
    exact if_pos (hcomplete.mpr ho)

end Taken

/-! ### OWN_ROLL (R156, R157) -/

section OwnRoll
variable {p : RingPort} {before after : List RollIn} {r : RollIn} {s : State}
  (hrolls : s.rollIn = before ++ r :: after) (hp : r.port = p) (ho : r.own = true)
  (hb : ∀ x ∈ before, x.port ≠ p ∨ x.own = false)
include hrolls hp ho hb

/-- The roll unit takes the oldest own roll of the port. -/
theorem takeFirst_own :
    takeFirst (fun x : RollIn => x.port == p && x.own) s.rollIn = some (r, before ++ after) := by
  rw [hrolls]
  refine takeFirst_append (fun x hx => ?_) (by simp [hp, ho]) after
  obtain h | h := hb x hx <;> simp [h]

theorem exec_ownRoll_late (hl : isLateRoll (s.buffer r.buf).trailer s = true) : exec (.ownRoll p) s =
    .next (settle (discardRoll r.buf (fun k => { k with lateRoll := raise k.lateRoll })
      { s with rollIn := before ++ after })) := by
  show execOwnRoll p s = _
  rw [execOwnRoll, takeFirst_own hrolls hp ho hb]
  exact congrArg finish (if_pos hl)

theorem exec_ownRoll_misfit (hl : isLateRoll (s.buffer r.buf).trailer s = false)
    (hf : rollListFits (s.buffer r.buf).body = false) : exec (.ownRoll p) s =
    .next (settle (discardRoll r.buf (fun k => { k with stray := raise k.stray })
      { s with rollIn := before ++ after })) := by
  show execOwnRoll p s = _
  rw [execOwnRoll, takeFirst_own hrolls hp ho hb]
  exact congrArg finish ((if_neg (ne_true_of_eq_false hl)).trans (if_pos (congrArg (!·) hf)))

theorem exec_ownRoll_present (hl : isLateRoll (s.buffer r.buf).trailer s = false)
    (hf : rollListFits (s.buffer r.buf).body = true) : exec (.ownRoll p) s =
    .next (settle (takeRoll p r.buf (s.buffer r.buf).trailer (s.buffer r.buf).body
      { s with rollIn := before ++ after })) := by
  show execOwnRoll p s = _
  rw [execOwnRoll, takeFirst_own hrolls hp ho hb]
  exact congrArg finish
    ((if_neg (ne_true_of_eq_false hl)).trans (if_neg (ne_true_of_eq_false (congrArg (!·) hf))))

end OwnRoll

end Sys2Proof.Machine

open Sys2Proof Sys2Proof.Machine

/-- Settles O52: an own roll or the timeout completes the lanes, and `endRound` makes the rest of them. -/
theorem ownRollsEndTheRound : Obligations.OwnRollsEndTheRound := by
  unfold Obligations.OwnRollsEndTheRound
  intro outcome lane ended
  have houtcome (e w : RollLane) : outcome e w (roundOutcome e w) := by
    refine ⟨roundOutcome_of_timeout, fun he hw => ?_, roundOutcome_of_open,
      fun he hw => roundOutcome_of_changed (.inl ⟨he, hw⟩), fun hw he => roundOutcome_of_changed (.inr ⟨hw, he⟩)⟩
    rw [roundOutcome_of_returned he hw]
    split <;> simp_all
  have hended (u : State) : ended u.free u (endRound u) u.roll.lanes.e u.roll.lanes.w := by
    refine ⟨roundOutcome u.roll.lanes.e u.roll.lanes.w, houtcome _ _, ?_⟩
    intro node far ending told next noticed
    have hrecord : roundRecord u = ⟨roundOutcome u.roll.lanes.e u.roll.lanes.w, u.roll.number, u.clock.nodeTime,
        u.roll.lanes, far u.roll.lanes.e, far u.roll.lanes.w⟩ := by
      simp only [roundRecord, listEnd_eq]
      rfl
    have hending : Notice.ends u.roll.number (roundRecord u).outcome (roundRecord u).eastEnd (roundRecord u).westEnd =
        ending := by rw [hrecord]
    refine ⟨endRound_again u, endRound_noted, fun ha => ?_, fun ha => ?_⟩
    · have hround := endRound_of_clear ha
      have htold := closeRound_notified u
      rw [hending, ← hround] at htold
      have hroll := (congrArg State.roll hround).trans (closeRound_roll u)
      rw [hroll, hrecord]
      refine ⟨(congrArg State.egress hround).trans (closeRound_egress u), rfl, rfl, rfl, rfl,
        fun hroom => htold.held hroom, fun hfull => ?_⟩
      rw [hround]
      exact note_addNotice_full _ rfl hfull
    · by_cases hdown : u.isDown .east = true ∧ u.isDown .west = true
      · obtain ⟨he, hw⟩ := hdown
        obtain ⟨hroll, htold⟩ := endRound_again_of_down ha he hw
        have hnext : next = .begins (u.roll.number + 1) .again .ownPortDown .ownPortDown := by
          simp only [next, told, he, hw, if_true]
        rw [hending, ← hnext] at htold
        rw [hroll, openRound_roundClosed_roll]
        exact ⟨rfl, rfl, by simp [he, hw], fun _ _ => ⟨rfl, rfl, rfl, rfl, rfl, rfl,
          fun hroom => htold.held (Nat.add_le_add_right (Nat.le_of_lt_succ hroom) 3)⟩⟩
      · obtain ⟨hroll, htold⟩ := endRound_again_of_up ha hdown
        rw [hending] at htold
        rw [hroll, openRound_roundClosed_roll, startLane_eq, startLane_eq]
        exact ⟨rfl, rfl, fun _ => ⟨rfl, rfl, hrecord, rfl, rfl,
          fun hroom => htold.held (Nat.add_le_add_right (Nat.le_of_lt_succ hroom) 2)⟩,
          fun he hw => absurd ⟨he, hw⟩ hdown⟩
  refine ⟨?_, fun s => ⟨fun hrun hdue => ?_, fun hidle => ?_⟩⟩
  · intro p before after r s hrolls hp ho hb b x late fits result home lanes
    let u : State := { s with rollIn := before ++ after }
    have hlate : isLateRoll b.trailer s = true ↔ late := isLateRoll_iff ..
    have hfits : rollListFits b.body = true ↔ fits := rollListFits_iff _
    by_cases hl : late
    · exact ⟨_, exec_ownRoll_late hrolls hp ho hb (hlate.mpr hl), rfl, rfl, rfl, fun _ => ⟨rfl, rfl, rfl⟩, fun _ => rfl,
        fun h => absurd hl h, fun h => absurd hl h, fun h => absurd hl h⟩
    have hpresent : isLateRoll b.trailer s = false := Bool.eq_false_iff.mpr (mt hlate.mp hl)
    by_cases hf : fits
    · have hexec := exec_ownRoll_present hrolls hp ho hb hpresent (hfits.mpr hf)
      by_cases hh : home
      · rw [takeRoll_home (s := u) hh] at hexec
        by_cases hother : (s.roll.lanes.get x.other).result = .unresolved
        · rw [if_pos hother] at hexec
          exact ⟨_, hexec, rfl, rfl, rfl, fun _ => ⟨rfl, rfl, rfl⟩, fun h => absurd h hl,
            fun _ h => absurd h (by simp [hf, hh]), fun _ _ _ _ => rfl, fun _ _ _ h => absurd hother h⟩
        · rw [if_neg hother] at hexec
          let v : State := release r.buf { u with roll := { u.roll with lanes := lanes } }
          have hsame := SameBut.endRound v
          exact ⟨_, hexec, hsame.rollIn, hsame.ports, hsame.check,
            fun h => absurd h (by simp [hl, hf, hh, hother]), fun h => absurd h hl,
            fun _ h => absurd h (by simp [hf, hh]), fun _ _ _ h => absurd h hother, fun _ _ _ _ => hended v⟩
      · rw [takeRoll_stray (s := u) hh] at hexec
        exact ⟨_, hexec, rfl, rfl, rfl, fun _ => ⟨rfl, rfl, rfl⟩, fun h => absurd h hl, fun _ _ => rfl,
          fun _ _ h => absurd h hh, fun _ _ h => absurd h hh⟩
    · have hmisfit : rollListFits b.body = false := Bool.eq_false_iff.mpr (mt hfits.mp hf)
      exact ⟨_, exec_ownRoll_misfit hrolls hp ho hb hpresent hmisfit, rfl, rfl, rfl, fun _ => ⟨rfl, rfl, rfl⟩,
        fun h => absurd h hl, fun _ _ => rfl, fun _ h => absurd h hf, fun _ h => absurd h hf⟩
  · intro timed
    let u : State := { s with roll := { s.roll with lanes := ⟨timed s.roll.lanes.e, timed s.roll.lanes.w⟩ } }
    refine ⟨endRound u, ?_, (SameBut.endRound u).ports, (SameBut.endRound u).check, hended u⟩
    exact congrArg (fun t => Host.Outcome.next (settle t)) (if_pos (by rw [hrun, hdue]; rfl))
  · refine congrArg (fun t => Host.Outcome.next (settle t)) (if_neg ?_)
    obtain h | h := hidle <;> simp [h]
end

section
/-! ## The repeater's stores (R169, R170) -/

namespace Sys2Proof.Machine

@[simp] theorem port_setEg (p q : Port) (e : Egress) (s : State) : (s.setEg p e).port q = s.port q := rfl
@[simp] theorem port_setDir (p : RingPort) (d : Direction) (q : Port) (s : State) :
    (s.setDir p d).port q = s.port q := rfl
@[simp] theorem eg_setPort (p q : Port) (u : PortUnit) (s : State) : (s.setPort p u).eg q = s.eg q := rfl
@[simp] theorem eg_setDir (p : RingPort) (d : Direction) (q : Port) (s : State) : (s.setDir p d).eg q = s.eg q := rfl
@[simp] theorem dir_setEg (p : Port) (e : Egress) (q : RingPort) (s : State) : (s.setEg p e).dir q = s.dir q := rfl

/-! ### One direction -/

/-- The transmitter is sending this store. -/
def Transmitter.Sends (t : Transmitter) (f : Bool) : Prop := ∃ bytes doneAt, t = .repeating f bytes doneAt

/-- The repeater's law read at one direction, with the receiver of its port and the transmitter it leads out of. -/
structure DirectionSafe (d : Direction) (rx : Receiver) (tx : Transmitter) : Prop where
  nodup : d.order.Nodup
  receiving : ∀ f, d.store f = .receiving ↔ rx = .repeating f
  holding : ∀ f, (d.store f).isHolding = true ↔ f ∈ d.order ∨ tx.Sends f
  apart : ∀ f, tx.Sends f → f ∉ d.order

@[simp] theorem Direction.store_setStore (d : Direction) (f g : Bool) (x : Store) :
    (d.setStore f x).store g = if g = f then x else d.store g := by
  cases f <;> cases g <;> rfl

@[simp] theorem Direction.order_setStore (d : Direction) (f : Bool) (x : Store) : (d.setStore f x).order = d.order := by
  cases f <;> rfl

@[simp] theorem Store.not_holding_free : Store.free.isHolding = false := rfl
@[simp] theorem Store.not_holding_receiving : Store.receiving.isHolding = false := rfl
@[simp] theorem Store.holding_holding (b : List Byte) : (Store.holding b).isHolding = true := rfl

theorem Transmitter.sends_repeating {f g : Bool} {b : List Byte} {n : Nat} :
    (Transmitter.repeating f b n).Sends g ↔ g = f := by
  simp [Transmitter.Sends, eq_comm]

theorem Transmitter.not_sends {t : Transmitter} (h : ∀ f b n, t ≠ .repeating f b n) (f : Bool) : ¬ t.Sends f := by
  rintro ⟨b, n, rfl⟩
  exact h f b n rfl

namespace DirectionSafe
variable {d : Direction} {rx r : Receiver} {tx t : Transmitter} {f : Bool}

/-- A direction without receptions, frames or transmissions. -/
theorem empty (hr : ∀ f, rx ≠ .repeating f) (ht : ∀ f, ¬ tx.Sends f) : DirectionSafe {} rx tx :=
  ⟨List.nodup_nil, fun f => by cases f <;> simpa [Direction.store] using hr _,
    fun f => by cases f <;> simp [Direction.store, ht], fun _ _ => List.not_mem_nil⟩

/-- The receiver and the transmitter matter by the stores they name alone. -/
theorem congr (h : DirectionSafe d rx tx) (hr : ∀ f, r = .repeating f ↔ rx = .repeating f)
    (ht : ∀ f, t.Sends f ↔ tx.Sends f) : DirectionSafe d r t :=
  ⟨h.nodup, fun f => (h.receiving f).trans (hr f).symm, fun f => by rw [ht]; exact h.holding f,
    fun f hf => h.apart f ((ht f).mp hf)⟩

/-- Counters are no part of the law. -/
theorem counted (h : DirectionSafe d rx tx) (m n : Counter) : DirectionSafe { d with repeated := m, lost := n } rx tx :=
  ⟨h.nodup, fun f => h.receiving f, fun f => h.holding f, h.apart⟩

theorem takes (h : DirectionSafe d rx tx) (hf : d.store f = .free) (hr : ∀ f, rx ≠ .repeating f) :
    DirectionSafe (d.setStore f .receiving) (.repeating f) tx := by
  have hno : ¬ (f ∈ d.order ∨ tx.Sends f) := by simp [← h.holding f, hf]
  refine ⟨by simpa using h.nodup, fun g => ?_, fun g => ?_, fun g hg => by simpa using h.apart g hg⟩
  · by_cases hg : g = f
    · simp [hg]
    · simp [hg, Ne.symm hg, h.receiving, hr]
  · by_cases hg : g = f
    · simpa [hg] using hno
    · simpa [hg] using h.holding g

/-- The reception into a store ends with the store freed. -/
theorem drops (h : DirectionSafe d (.repeating f) tx) (hr : ∀ f, r ≠ .repeating f) :
    DirectionSafe (d.setStore f .free) r tx := by
  have hno : ¬ (f ∈ d.order ∨ tx.Sends f) := by simp [← h.holding f, (h.receiving f).mpr rfl]
  refine ⟨by simpa using h.nodup, fun g => ?_, fun g => ?_, fun g hg => by simpa using h.apart g hg⟩
  · by_cases hg : g = f
    · simp [hg, hr]
    · simp [hg, Ne.symm hg, h.receiving, hr]
  · by_cases hg : g = f
    · simpa [hg] using hno
    · simpa [hg] using h.holding g

/-- The reception into a store ends with a frame that waits. -/
theorem joins (h : DirectionSafe d (.repeating f) tx) (hr : ∀ f, r ≠ .repeating f) (b : List Byte) :
    DirectionSafe { d.setStore f (.holding b) with order := (d.setStore f (.holding b)).order ++ [f] } r tx := by
  have hno : ¬ (f ∈ d.order ∨ tx.Sends f) := by simp [← h.holding f, (h.receiving f).mpr rfl]
  rw [not_or] at hno
  rw [Direction.order_setStore]
  have hstore : ∀ g, ({ d.setStore f (.holding b) with order := d.order ++ [f] } : Direction).store g =
      (d.setStore f (.holding b)).store g := fun g => rfl
  refine ⟨?_, fun g => ?_, fun g => ?_, fun g hg => ?_⟩
  · simpa using List.Nodup.concat hno.1 h.nodup
  · rw [hstore]
    by_cases hg : g = f
    · simp [hg, hr]
    · simp [hg, Ne.symm hg, h.receiving, hr]
  · rw [hstore]
    by_cases hg : g = f
    · simp [hg]
    · simpa [hg] using h.holding g
  · have hgf : g ≠ f := fun he => hno.2 (he ▸ hg)
    simpa [hgf] using h.apart g hg

/-- The head of the send order starts on a transmitter that was free. -/
theorem starts {rest : List Bool} (h : DirectionSafe d rx tx) (ht : ∀ f, ¬ tx.Sends f) (ho : d.order = f :: rest)
    (b : List Byte) (n : Nat) : DirectionSafe { d with order := rest } rx (.repeating f b n) := by
  have hnodup := h.nodup
  rw [ho, List.nodup_cons] at hnodup
  refine ⟨hnodup.2, fun g => h.receiving g, fun g => ?_, fun g hg => ?_⟩
  · rw [Transmitter.sends_repeating]
    refine (h.holding g).trans ?_
    simp [ho, ht, or_comm]
  · rw [Transmitter.sends_repeating] at hg
    exact hg ▸ hnodup.1

/-- The transmission of a store ends, and the store is freed. -/
theorem completes {b : List Byte} {n : Nat} (h : DirectionSafe d rx (.repeating f b n)) (ht : ∀ f, ¬ t.Sends f) :
    DirectionSafe (d.setStore f .free) rx t := by
  have hsends : (Transmitter.repeating f b n).Sends f := Transmitter.sends_repeating.mpr rfl
  have hheld := (h.holding f).mpr (.inr hsends)
  refine ⟨by simpa using h.nodup, fun g => ?_, fun g => ?_, fun g hg => absurd hg (ht g)⟩
  · by_cases hg : g = f
    · have hrx : rx ≠ .repeating f := fun hr => by simp [(h.receiving f).mpr hr] at hheld
      simpa [hg] using hrx
    · simpa [hg] using h.receiving g
  · by_cases hg : g = f
    · simpa [hg, ht] using h.apart f hsends
    · simpa [hg, ht, Transmitter.sends_repeating] using h.holding g

/-- The port the direction leads out of falls: what waited and what was being sent is dropped (R170). -/
theorem falls (h : DirectionSafe d rx tx) (ht : ∀ f, ¬ t.Sends f) (n : Counter) :
    DirectionSafe { d with first := d.first.dropHeld, second := d.second.dropHeld, order := [], lost := n } rx t := by
  have hstore : ∀ f, ({ d with first := d.first.dropHeld, second := d.second.dropHeld, order := [], lost := n }
      : Direction).store f = (d.store f).dropHeld := fun f => by cases f <;> rfl
  have hdrop : ∀ x : Store, (x.dropHeld = .receiving ↔ x = .receiving) ∧ x.dropHeld.isHolding = false := fun x => by
    cases x <;> simp [Store.dropHeld]
  refine ⟨List.nodup_nil, fun f => ?_, fun f => ?_, fun f hf => absurd hf (ht f)⟩
  · rw [hstore, (hdrop _).1]
    exact h.receiving f
  · simp [hstore, hdrop, ht]

end DirectionSafe

/-! ### Both directions -/

theorem dropReception_repeater {p : Port} {s : State}
    (hno : ∀ f, p.ring?.isSome = true → (s.port p).rx ≠ .repeating f) :
    (dropReception p s).repeater = s.repeater := by
  rw [dropReception_eq]
  dsimp only
  split
  · next f r hf hp => exact absurd hf (hno f (by simp [hp]))
  · rfl

/-- Both directions are safe. -/
def State.RepeaterSafe (s : State) : Prop :=
  ∀ p : RingPort, DirectionSafe (s.dir p) (s.port p.port).rx (s.eg p.opposite.port).tx

theorem State.sendsStore_iff (s : State) (out : RingPort) (f : Bool) :
    s.sendsStore out f = true ↔ (s.eg out.port).tx.Sends f := by
  unfold State.sendsStore
  cases (s.eg out.port).tx <;> simp [Transmitter.Sends]

theorem repeaterSafe_iff (s : State) : s.RepeaterSafe ↔ s.RepeaterLaw := by
  refine forall_congr' fun p => ⟨fun h => ⟨h.nodup, fun f => ?_⟩, fun ⟨hn, h⟩ => ?_⟩
  · rw [State.sendsStore_iff]
    exact ⟨h.receiving f, h.holding f, h.apart f⟩
  · simp only [State.sendsStore_iff] at h
    exact ⟨hn, fun f => (h f).1, fun f => (h f).2.1, fun f => (h f).2.2⟩

namespace State.RepeaterSafe
variable {s t : State}

theorem congr (h : s.RepeaterSafe) (hd : t.repeater = s.repeater) (hp : t.ports = s.ports)
    (he : t.egress = s.egress) : t.RepeaterSafe := by
  intro p
  simpa only [State.dir, State.port, State.eg, hd, hp, he] using h p

/-- One direction after the other. -/
theorem of_two (q : RingPort) (hq : DirectionSafe (t.dir q) (t.port q.port).rx (t.eg q.opposite.port).tx)
    (ho : DirectionSafe (t.dir q.opposite) (t.port q.opposite.port).rx (t.eg q.port).tx) : t.RepeaterSafe := by
  intro p
  cases p <;> cases q <;> assumption

/-- The transmitter of a ring port matters by the store it sends alone, that of the tap port not at all. -/
theorem setEg {p : Port} {e : Egress} (h : s.RepeaterSafe)
    (he : ∀ f, p.ring?.isSome = true → (e.tx.Sends f ↔ (s.eg p).tx.Sends f)) : (s.setEg p e).RepeaterSafe :=
  fun q => (h q).congr (fun _ => .rfl) fun f => by
    rw [eg_setEg]
    split
    · next hp =>
      subst hp
      exact he f (by simp)
    · rfl

/-- The receiver of a ring port matters by the store it writes into alone, that of the tap port not at all. -/
theorem setPort {p : Port} {u : PortUnit} (h : s.RepeaterSafe)
    (hu : ∀ f, p.ring?.isSome = true → (u.rx = .repeating f ↔ (s.port p).rx = .repeating f)) :
    (s.setPort p u).RepeaterSafe :=
  fun q => (h q).congr (fun f => by
    rw [port_setPort]
    split
    · next hp =>
      subst hp
      exact hu f (by simp)
    · rfl) fun _ => .rfl

/-- The direction of frames that arrive on `p` and the receiver of `p` change. -/
theorem setDir_setPort {p : RingPort} {d : Direction} {u : PortUnit} (h : s.RepeaterSafe)
    (hd : DirectionSafe d u.rx (s.eg p.opposite.port).tx) : ((s.setDir p d).setPort p.port u).RepeaterSafe :=
  of_two p (by simpa using hd) (by simpa [RingPort.opposite_ne] using h p.opposite)

/-- The direction that leads out of `out` and the transmitter of `out` change. -/
theorem setDir_setEg {out : RingPort} {d : Direction} {e : Egress} (h : s.RepeaterSafe)
    (hd : DirectionSafe d (s.port out.opposite.port).rx e.tx) :
    ((s.setDir out.opposite d).setEg out.port e).RepeaterSafe :=
  of_two out.opposite (by simpa using hd)
    (by simpa [RingPort.opposite_ne, (RingPort.opposite_ne out).symm] using h out)

/-- A direction alone changes. -/
theorem setDir {p : RingPort} {d : Direction} (h : s.RepeaterSafe)
    (hd : DirectionSafe d (s.port p.port).rx (s.eg p.opposite.port).tx) : (s.setDir p d).RepeaterSafe :=
  of_two p (by simpa using hd) (by simpa [RingPort.opposite_ne] using h p.opposite)

/-- A reception that wrote into no store ends. -/
theorem ends {p : Port} {u : PortUnit} (h : s.RepeaterSafe)
    (hno : ∀ f, p.ring?.isSome = true → (s.port p).rx ≠ .repeating f) (hu : ∀ f, u.rx ≠ .repeating f) :
    (s.setPort p u).RepeaterSafe := h.setPort fun f hp => by simp [hu, hno f hp]

/-- The reception at `p` ends without a frame kept: a store that it wrote into is freed. -/
theorem dropped {p : Port} {u : PortUnit} (h : s.RepeaterSafe) (hu : ∀ f, u.rx ≠ .repeating f) :
    ((dropReception p s).setPort p u).RepeaterSafe := by
  by_cases hr : ∃ r f, p = RingPort.port r ∧ (s.port p).rx = .repeating f
  · obtain ⟨r, f, rfl, hr⟩ := hr
    rw [dropReception_repeating hr]
    exact h.setDir_setPort ((hr ▸ h r :).drops hu)
  · have hno : ∀ f, p.ring?.isSome = true → (s.port p).rx ≠ .repeating f := fun f hp hf => by
      obtain ⟨r, hp⟩ := Option.isSome_iff_exists.mp hp
      exact hr ⟨r, f, Port.ring_port hp, hf⟩
    have hsafe : (dropReception p s).RepeaterSafe := by
      refine h.congr (dropReception_repeater hno) ?_ ?_ <;> rw [dropReception_eq]
    exact hsafe.ends (by rwa [dropReception_port]) hu

/-- The next frame of a send order starts (R169). -/
theorem startRepeat (h : s.RepeaterSafe) (out : RingPort) : (startRepeat out s).RepeaterSafe := by
  unfold Machine.startRepeat
  split
  · exact h
  · next f rest ho =>
    split
    · next hm =>
      simp only [State.mayRepeat, Bool.and_eq_true] at hm
      have hsafe := h out.opposite
      rw [RingPort.opposite_opposite] at hsafe
      exact h.setDir_setEg (hsafe.starts (Transmitter.not_sends (Transmitter.not_repeating hm.2)) ho _ _)
    · exact h

/-- A port falls (R10, R102, R170): its reception is cut and the direction out of it emptied. -/
theorem fallen (h : s.RepeaterSafe) (p : Port) : (fallen p s).RepeaterSafe := by
  let cut : State := (dropReception p s).setPort p (s.port p).enterDown
  let e : Egress :=
    { urgent := [], stream := [], bulk := [], tx := .free, chosen := (s.eg p).chosen,
      counters := (s.eg p).counters.raiseFlushed (s.eg p).held.length }
  have hcut : cut.RepeaterSafe := h.dropped nofun
  have hports : cut.ports = s.ports.set p (s.port p).enterDown := by
    simp only [cut, dropReception_eq, State.setPort]
  have hegress (d : State) (hd : d.egress = cut.egress) : (d.setEg p e).egress = s.egress.set p e := by
    simp only [State.setEg, hd, cut, dropReception_eq, State.setPort]
  cases hp : p.ring? with
  | none =>
    have hflushed : (cut.setEg p e).RepeaterSafe := hcut.setEg fun f hring => by simp [hp] at hring
    refine hflushed.congr ?_ ?_ ?_ <;> rw [fallen_eq]
    · cases hr : (s.port p).rx <;> simp [cut, dropReception_eq, hp, hr]
    · exact hports.symm
    · exact (hegress cut rfl).symm
  | some r =>
    obtain rfl := Port.ring_port hp
    have hsafe := hcut r.opposite
    rw [RingPort.opposite_opposite] at hsafe
    let d : Direction := cut.dir r.opposite
    have hflushed : ((cut.setDir r.opposite { d with
        first := d.first.dropHeld, second := d.second.dropHeld, order := []
        lost := raiseBy d.heldCount d.lost }).setEg r.port e).RepeaterSafe :=
      hcut.setDir_setEg (hsafe.falls (Transmitter.not_sends (t := .free) nofun) _)
    refine hflushed.congr ?_ ?_ ?_ <;> rw [fallen_eq]
    · simp only [hp]
      rfl
    · exact hports.symm
    · exact (hegress _ rfl).symm

theorem start (s : State) (c : StartCause) : (takeStart c s).RepeaterSafe := by
  obtain ⟨-, hport, -, -, -, -, -, -, -, hegress, hrepeater, -⟩ := takeStart_started c s
  intro p
  have hdir : (takeStart c s).dir p = {} := by
    rw [State.dir, hrepeater]
    cases p <;> rfl
  have heg : ((takeStart c s).eg p.opposite.port).tx = .free := by
    rw [State.eg, hegress]
    cases p <;> rfl
  rw [hdir, heg, hport]
  exact .empty nofun (Transmitter.not_sends nofun)

/-- ZERO takes no part of the repeater that the law is about (R170). -/
theorem zero (h : s.RepeaterSafe) : (zeroCounters s).RepeaterSafe := by
  intro p
  rw [port_zeroCounters, eg_zeroCounters]
  have hdir : (zeroCounters s).dir p = (s.dir p).zeroed := by cases p <;> rfl
  rw [hdir]
  exact (h p).counted 0 0

end State.RepeaterSafe

/-- No update of a port unit by itself concerns the repeater's stores. -/
theorem PortStep.repeating {p : Port} {u v : PortUnit} (hs : PortStep p u v) (f : Bool) :
    v.rx = .repeating f ↔ u.rx = .repeating f := by
  cases hs with
  | start r _ hidle hr => simp [hidle, hr]
  | _ => exact .rfl

/-- No update of an egress scheduler by itself concerns the repeater's transmissions. -/
theorem EgressStep.sends {down : Bool} {a b : Egress} (hs : EgressStep down a b) (f : Bool) :
    b.tx.Sends f ↔ a.tx.Sends f := by
  obtain hsame | ⟨-, ha, hb⟩ := hs.tx
  · rw [hsame]
  · simp [Transmitter.not_sends ha, Transmitter.not_sends hb]

/-- The updates that commands are made of keep the repeater's law. -/
theorem repeaterSafe_kept : Kept State.RepeaterSafe where
  egress := fun _ _ _ he h => h.setEg fun f _ => he.sends f
  port := fun _ _ _ hu h => h.setPort fun f _ => hu.repeating f
  lost := fun s p n h => h.setDir ((h p).counted _ _)
  startRepeat := fun _ out h => h.startRepeat out
  repeatDone := fun s out f b d ht h => by
    have hsafe := h out.opposite
    rw [RingPort.opposite_opposite, ht] at hsafe
    exact h.setDir_setEg (hsafe.completes (Transmitter.not_sends nofun))
  repeated := fun s p n h => h.setDir ((h p).counted _ _)
  repeatTake := fun s p f hf hi _ h => h.setDir_setPort ((h p).takes hf (by simp [hi]))
  giant := fun s p h => by
    rw [setRx]
    exact h.dropped (by rw [dropReception_port]; cases (s.port p).rx <;> exact nofun)
  endError := fun s p o _ h => h.dropped nofun
  endIntact := fun s p _ hno h => h.ends hno nofun
  repeatLoses := fun s p f hr h => by
    have hsafe := h.setDir_setPort (u := (s.port p.port).goodEnd) ((hr ▸ h p :).drops (r := .idle) nofun)
    exact hsafe.congr rfl rfl rfl
  repeatJoins := fun s p f b hr h => by
    have hsafe := h.setDir_setPort (u := (s.port p.port).goodEnd) ((hr ▸ h p :).joins (r := .idle) nofun b)
    exact hsafe.congr rfl rfl rfl
  fallen := fun s p _ h => h.fallen p
  zero := fun s h => h.zero
  start := fun s c _ => .start s c
  enter := fun s st _ h => h.congr rfl rfl rfl
  begins := fun s ph _ _ _ h => h.congr rfl rfl rfl
  retry := fun s st ops _ _ h => h.congr rfl rfl rfl
  decides := fun s l d _ _ _ h => h.congr rfl rfl rfl
  transit := fun s l d _ _ _ h => h.congr rfl rfl rfl
  fix := fun s d _ _ h => h.congr rfl rfl rfl

end Sys2Proof.Machine

open Sys2Proof Sys2Proof.Machine

/-- Settles O39: the repeater's law is an invariant of the updates that commands are made of. -/
theorem repeaterStoresAreAccountedFor : Obligations.RepeaterStoresAreAccountedFor := by
  intro s t h hstep
  obtain ⟨u, hu, hsafe⟩ := repeaterSafe_kept.step (fun _ _ h => h) (fun _ h => h) ((repeaterSafe_iff s).mpr h)
  rw [hstep] at hu
  cases hu
  exact (repeaterSafe_iff t).mp hsafe
end

section
/-! ## The repeater path (R169, R170): receptions, the send order, transmissions and falls -/

namespace Sys2Proof.Machine

/-! ### The next frame of the send order (R169) -/

section Send
variable {s : State} {out : RingPort}

theorem State.mayRepeat_iff : s.mayRepeat out = true ↔ s.isDown out.port = false ∧
    ((s.eg out.port).tx = .free ∨ ∃ n, (s.eg out.port).tx = .gap n ∧ n ≤ s.clock.refclk) := by
  rw [State.mayRepeat, Bool.and_eq_true, Bool.not_eq_true', Transmitter.isFree_iff]

theorem startRepeat_of_busy (h : s.mayRepeat out ≠ true) : startRepeat out s = s := by
  unfold startRepeat
  split
  · rfl
  · exact if_neg h

/-- The head of the send order leaves it and is sent as it was received. -/
theorem startRepeat_of_head {f : Bool} {rest : List Bool} {bytes : List Byte}
    (ho : (s.dir out.opposite).order = f :: rest) (hx : (s.dir out.opposite).store f = .holding bytes)
    (h : s.mayRepeat out = true) : startRepeat out s =
      (s.setDir out.opposite { s.dir out.opposite with order := rest }).setEg out.port
        { s.eg out.port with tx := .repeating f bytes (s.clock.refclk + 4 * (8 + bytes.length)) } := by
  unfold startRepeat
  rw [ho]
  dsimp only
  rw [if_pos h, hx]
  rfl

/-- The start of a frame changes at most the direction out of the port and the port's transmitter. -/
theorem startRepeat_cases (out : RingPort) (s : State) :
    startRepeat out s = s ∨ ∃ d e, startRepeat out s = (s.setDir out.opposite d).setEg out.port e := by
  unfold startRepeat
  split
  · exact .inl rfl
  · split
    · exact .inr ⟨_, _, rfl⟩
    · exact .inl rfl

theorem startRepeat_frame (out : RingPort) (s : State) : (startRepeat out s).ports = s.ports ∧
    (startRepeat out s).dir out = s.dir out ∧ ∀ q, q ≠ out.port → (startRepeat out s).eg q = s.eg q := by
  obtain h | ⟨d, e, h⟩ := startRepeat_cases out s <;> rw [h]
  · exact ⟨rfl, rfl, fun _ _ => rfl⟩
  · exact ⟨rfl, by simp [(RingPort.opposite_ne out).symm], fun q hq => by simp [hq]⟩

end Send

/-! ### The end of a reception (R169) -/

@[simp] theorem setDir_setDir (p : RingPort) (d e : Direction) (s : State) :
    (s.setDir p d).setDir p e = s.setDir p e := by
  simp [State.setDir]

section Received
variable {p : RingPort} {f : Bool} {bytes : List Byte} {steps : Nat} {s : State}

@[simp] theorem Direction.lost_setStore (d : Direction) (f : Bool) (x : Store) : (d.setStore f x).lost = d.lost := by
  cases f <;> rfl

theorem frameOutcome_of_intact {p : RingPort} (hmin : 64 ≤ bytes.length) (hmax : bytes.length ≤ 1528)
    (hsteps : steps % 4 = 0) (hfcs : fcsOk bytes = true) : frameOutcome p.port false bytes steps = .intact := by
  rw [frameOutcome_intact_iff]
  exact ⟨rfl, by cases p <;> exact hmax, hmin, hsteps, hfcs⟩

theorem exec_frameEnd_repeating (hr : (s.port p.port).rx = .repeating f)
    (ho : frameOutcome p.port false bytes steps = .intact) : exec (.frameEnd p.port bytes steps) s =
      .next (settle (repeatEnd p f bytes (s.setPort p.port (s.port p.port).goodEnd))) := by
  rw [exec_frameEnd_intact (by simp [hr]) (by rw [hr]; exact ho), hr]
  simp only [intactFrame, RingPort.port_ring]

/-- A frame that ends INTACT with the opposite port DOWN is lost, and its store freed. -/
theorem repeatEnd_of_down (h : s.isDown p.opposite.port = true) : repeatEnd p f bytes s =
    s.setDir p { (s.dir p).setStore f .free with lost := raise (s.dir p).lost } := by
  rw [repeatEnd, if_pos h, repeatLost, freeStore]
  simp [raise]

/-- A frame that ends INTACT with the opposite port not DOWN joins the tail of the send order. -/
theorem repeatEnd_of_up (h : s.isDown p.opposite.port = false) : repeatEnd p f bytes s =
    startRepeat p.opposite (s.setDir p
      { (s.dir p).setStore f (.holding bytes) with order := (s.dir p).order ++ [f] }) := by
  rw [repeatEnd, if_neg (by simp [h]), joinOrder]
  simp

end Received

/-! ### The fall of a port (R10, R170) -/

section Fall
variable (r : RingPort) (s : State)

/-- The direction that leads out of the fallen port drops its frames. -/
theorem fallen_dir_opposite : (fallen r.port s).dir r.opposite =
    let d := s.dir r.opposite
    { d with
      first := d.first.dropHeld
      second := d.second.dropHeld
      order := []
      lost := raiseBy d.heldCount d.lost } := by
  have hother : (dropReception r.port s).dir r.opposite = s.dir r.opposite := by
    rw [dropReception_eq]
    cases (s.port r.port).rx <;> simp [State.dir, RingPort.opposite_ne]
  rw [fallen_eq]
  simp only [RingPort.port_ring, State.dir, repeatDrop, State.setDir, PerRing.get_set, if_true]
  rw [← State.dir, hother]
  rfl

/-- The direction of the frames that arrived on the fallen port loses the store of the reception that is cut. -/
theorem fallen_dir : (fallen r.port s).dir r = (dropReception r.port s).dir r := by
  rw [fallen_eq]
  simp [State.dir, repeatDrop, State.setDir, (RingPort.opposite_ne r).symm]

end Fall

end Sys2Proof.Machine

open Sys2Proof Sys2Proof.Machine

/-- Settles O38: a reception, a transmission and a fall are each one operation on the two directions. -/
theorem repeaterSendsWhatItReceived : Obligations.RepeaterSendsWhatItReceived := by
  refine ⟨?_, ?_, ?_, ?_, ?_⟩
  · intro p f bytes steps s hr hmin hmax hsteps hfcs
    let v : State := s.setPort p.port (s.port p.port).goodEnd
    have hexec := exec_frameEnd_repeating hr (frameOutcome_of_intact hmin hmax hsteps hfcs)
    have hidle : (v.port p.port).rx = .idle := by simp [v, PortUnit.goodEnd]
    have hdown : v.isDown p.opposite.port = s.isDown p.opposite.port := by
      simp [v, State.isDown, RingPort.opposite_ne]
    cases hd : s.isDown p.opposite.port with
    | true =>
      rw [repeatEnd_of_down (s := v) (hdown.trans hd)] at hexec
      exact ⟨_, hexec, hidle, fun _ => ⟨by simp [v], rfl⟩, nofun⟩
    | false =>
      rw [repeatEnd_of_up (s := v) (hdown.trans hd)] at hexec
      let u : State := v.setDir p { (v.dir p).setStore f (.holding bytes) with order := (v.dir p).order ++ [f] }
      obtain ⟨hports, hdir, heg⟩ := startRepeat_frame p.opposite u
      have hudir : u.dir p = { (s.dir p).setStore f (.holding bytes) with order := (s.dir p).order ++ [f] } := by
        simp [u, v]
      refine ⟨startRepeat p.opposite u, hexec, ?_, nofun, fun _ => ?_⟩
      · rw [State.port, hports]
        exact hidle
      · intro out held free sends
        have hmay : u.mayRepeat p.opposite = true ↔ free := by
          rw [State.mayRepeat_iff]
          exact and_iff_right (hdown.trans hd)
        have hsends (hfree : free) {g : Bool} {rest : List Bool} {frame : List Byte} (ho : (u.dir p).order = g :: rest)
            (hx : (u.dir p).store g = .holding frame) :
            (startRepeat p.opposite u).dir p = { u.dir p with order := rest } ∧
              (startRepeat p.opposite u).eg out = sends g frame := by
          rw [startRepeat_of_head (by simpa using ho) (by simpa using hx) (hmay.mpr hfree), RingPort.opposite_opposite]
          exact ⟨by simp, by simp [out, u, v, sends]⟩
        refine ⟨heg, hdir.trans (by simp [u, v, RingPort.opposite_ne]), fun hbusy => ?_, fun hfree ho => ?_,
          fun hfree g rest frame ho hg hx => ?_⟩
        · rw [startRepeat_of_busy (mt hmay.mp hbusy)]
          exact ⟨hudir, rfl⟩
        · obtain ⟨hnext, hsent⟩ := hsends hfree (g := f) (rest := []) (frame := bytes) (by rw [hudir, ho]; rfl)
            (by rw [hudir]; exact (Direction.store_setStore ..).trans (if_pos rfl))
          have horder : held.order = [] := (Direction.order_setStore ..).trans ho
          refine ⟨hnext.trans ?_, hsent⟩
          rw [hudir, ← horder]
        · obtain ⟨hnext, hsent⟩ := hsends hfree (g := g) (rest := rest ++ [f]) (frame := frame) (by rw [hudir, ho]; rfl)
            (by rw [hudir]; exact (Direction.store_setStore ..).trans ((if_neg hg).trans hx))
          exact ⟨hnext.trans (by rw [hudir]), hsent⟩
  · intro p bytes steps s hr hmin hmax hsteps hfcs
    rw [exec_frameEnd_intact (by simp [hr]) (by rw [hr]; exact frameOutcome_of_intact hmin hmax hsteps hfcs), hr]
    simp only [intactFrame, RingPort.port_ring]
    rfl
  · intro out f bytes doneAt s ht hd
    have hrepeated : ((s.dir out.opposite).setStore f .free).repeated = (s.dir out.opposite).repeated := by
      cases f <;> rfl
    simp only [exec, execRepeaterTxComplete, finish, ht, if_pos hd, freeStore, dir_setDir, if_true, hrepeated,
      setDir_setDir]
    rfl
  · intro out f rest bytes s ho hx hm
    exact congrArg (fun t => Host.Outcome.next (settle t)) (startRepeat_of_head ho hx hm)
  · intro out s hd d left held
    have hleft : left = Store.dropHeld := funext fun x => by cases x <;> rfl
    have hheld : held d.first + held d.second = d.heldCount := by
      have hone (x : Store) : held x = if x.isHolding then 1 else 0 := by cases x <;> rfl
      rw [hone, hone]
      rfl
    let v : State := setLink out.port false s
    have hrepeater : (portFalls out.port v).repeater = (fallen out.port v).repeater :=
      (portFalls_sameBut out.port v).repeater
    have hdir (q : RingPort) : (portFalls out.port v).dir q = (fallen out.port v).dir q := by
      rw [State.dir, hrepeater]
      rfl
    refine ⟨_, exec_linkFall hd, ?_, fun f hf => ?_, fun hno => ?_⟩
    · rw [hdir, fallen_dir_opposite, hleft, hheld]
      rfl
    · rw [hdir, fallen_dir, dropReception_repeating (s := v) hf]
      exact (dir_setDir ..).trans (if_pos rfl)
    · rw [hdir, fallen_dir, State.dir, dropReception_repeater (s := v) fun f _ => hno f]
      rfl
end

section
/-! ## The loader's law (R171, R173 to R178) -/

namespace Sys2Proof.Machine

namespace State.LoaderLaw
variable {s t : State}

/-- The law is about the loader alone. -/
theorem congr (h : s.LoaderLaw) (hl : t.loader = s.loader) : t.LoaderLaw := by
  simpa only [State.LoaderLaw, State.member, State.node, State.cfg, hl] using h

theorem start (c : StartCause) (s : State) : (takeStart c s).LoaderLaw := by
  have hloader : (∃ k b, (takeStart c s).loader = { cause := k, stopFirst := b }) ∨
      ∃ k x ops, (takeStart c s).loader =
        { cause := k, nodeState := .loading, strap := x, phase := .image, bus := ops } := by
    unfold takeStart
    cases c with
    | power =>
      dsimp only
      split
      · exact .inr ⟨_, _, _, rfl⟩
      · exact .inl ⟨_, _, rfl⟩
    | line => exact .inl ⟨_, _, rfl⟩
    | command => exact .inr ⟨_, _, _, rfl⟩
  unfold State.LoaderLaw State.member
  obtain ⟨k, b, h⟩ | ⟨k, x, ops, h⟩ := hloader <;> rw [h] <;>
    exact ⟨nofun, nofun, nofun, Nat.zero_le _, Nat.zero_le _, fun _ => Nat.zero_le _, nofun, by intro; rfl⟩

/-- The configuration that was decided is fixed, within its ranges (R179). -/
theorem fixConfiguration {d : Draft} (hd : d.Law) (hattempts : s.loader.attempts ≤ 3)
    (hcount : s.loader.clampCount ≤ 255) : (fixConfiguration d s).LoaderLaw := by
  obtain ⟨hsettings, -, -, hnext⟩ := hd
  refine ⟨fun c hc => ?_, nofun, fun hm => ?_, hattempts, hcount, nofun, nofun, fun hr => ?_⟩
  · cases hc
    exact hsettings
  · obtain hn | hn := (State.member_iff _).mp hm <;>
      exact (hnext.resolve_left (by rw [show d.next = _ from hn]; exact nofun)).2
  · obtain hn | ⟨hn | hn, -⟩ := hnext <;> exact absurd (hn.symm.trans hr) nofun

end State.LoaderLaw

/-- What an image read decides lies within its ranges; the configuration set and the node state stay (R173 to R177). -/
theorem Decided.spec {l m : Loader} (h : Decided l m) : (∀ d, m.draft = some d → d.Law) ∧
    m.attempts = l.attempts + 1 ∧ m.config = l.config ∧ m.nodeState = l.nodeState ∧
      (l.clampCount ≤ 255 → m.clampCount ≤ 255) := by
  cases h with
  | good => exact ⟨fun d hd => goodDraft_law hd, rfl, rfl, rfl, fun _ => Nat.min_le_left ..⟩
  | bad => exact ⟨fun d hd => badDraft_law hd, rfl, rfl, rfl, id⟩

/-- The updates that commands are made of keep the loader's law. -/
theorem loaderLaw_kept : Kept State.LoaderLaw where
  startRepeat := fun s out h => h.congr ((loader_kept _).startRepeat s out rfl)
  repeatDone := by intros; assumption
  repeatTake := by intros; assumption
  giant := fun s p h => h.congr ((loader_kept _).giant s p rfl)
  endError := fun s p o hr h => h.congr ((loader_kept _).endError s p o hr rfl)
  endIntact := by intros; assumption
  repeatLoses := by intros; assumption
  repeatJoins := by intros; assumption
  fallen := fun s p hd h => h.congr ((loader_kept _).fallen s p hd rfl)
  zero := by intros; assumption
  start := fun s c _ => .start c s
  enter := fun s st hn h => by
    obtain ⟨hconfig, hdraft, -, -, hcount, -, -, hreset⟩ := h
    have hnone := hreset hn
    exact ⟨hconfig, hdraft, nofun, hnone.le.trans (Nat.zero_le _), hcount, fun _ => hnone.le.trans (Nat.zero_le _), nofun,
      nofun⟩
  begins := fun s ph hn hph hf h => by
    obtain ⟨hconfig, hdraft, hm, hattempts, hcount, -, -, hreset⟩ := h
    exact ⟨hconfig, hdraft, hm, hattempts, hcount, fun hi => absurd hi hph, hf, hreset⟩
  retry := fun s st ops hi ha h => by
    obtain ⟨hconfig, hdraft, hm, -, hcount, -, -, -⟩ := h
    have hn : s.loader.nodeState = .loading := (State.loadingIn_state hi).1
    exact ⟨hconfig, hdraft, hm, ha.le, hcount, fun _ => Nat.le_of_lt_succ ha, nofun,
      fun hr => absurd (hn.symm.trans hr) nofun⟩
  decides := fun s l d hi hl _ h => by
    obtain ⟨hn, hp⟩ := State.loadingIn_state hi
    obtain ⟨hconfig, -, -, -, hcount, hattempts, -, -⟩ := h
    obtain ⟨hdraft, hmade, hsame, hstate, hclamps⟩ := hl.spec
    have hloading : l.nodeState = .loading := hstate.trans hn
    have hbound : l.attempts ≤ 3 := hmade.trans_le (Nat.succ_le_succ (hattempts hp))
    refine ⟨fun c hc => hconfig c (hsame.symm.trans hc), hdraft, fun hm => ?_, hbound, hclamps hcount, nofun, ?_,
      fun hr => absurd (hloading.symm.trans hr) nofun⟩
    · obtain hm | hm := (State.member_iff _).mp hm <;> exact absurd (hloading.symm.trans hm) nofun
    · intro f hf
      cases hf
      exact Nat.zero_le _
  transit := fun s l d hi hl hd h => by
    obtain ⟨-, -, -, -, hcount, hattempts, -, -⟩ := h
    obtain ⟨hdraft, hmade, -, -, hclamps⟩ := hl.spec
    exact .fixConfiguration (hdraft d hd) (hmade.trans_le (Nat.succ_le_succ (hattempts (State.loadingIn_state hi).2)))
      (hclamps hcount)
  fix := fun s d _ hd h => by
    obtain ⟨-, hdraft, -, hattempts, hcount, -, -, -⟩ := h
    exact .fixConfiguration (hdraft d hd) hattempts hcount

end Sys2Proof.Machine
end

section
/-! ## Out of the ring, and the run (R168, R179, R180) -/

namespace Sys2Proof.Machine

/-! ### Updates that a node out of the ring may make -/

/-- The units of a ring member, and the loader, are left. -/
structure LeavesUnits (s t : State) : Prop where
  loader : t.loader = s.loader
  tagger : t.tagger = s.tagger
  filter : t.filter = s.filter
  sources : t.sources = s.sources
  check : t.check = s.check
  time : t.time = s.time
  roll : t.roll = s.roll
  rollIn : t.rollIn = s.rollIn

/-- Besides, no command comes to the report unit, and none starts to be received. -/
structure StaysOut (s t : State) : Prop extends LeavesUnits s t where
  codes : (t.report.queue.map Command.code).Sublist (s.report.queue.map Command.code)
  commandIn : t.commandIn = s.commandIn
  receiver : ∀ b, (t.port .tap).rx = .storing b → (s.port .tap).rx = .storing b

theorem LeavesUnits.of_sameBut {s t : State} (h : SameBut s t) (hroll : t.roll = s.roll) : LeavesUnits s t :=
  ⟨h.loader, h.tagger, h.filter, h.sources, h.check, h.time, hroll, h.rollIn⟩

namespace StaysOut
variable {s t u : State}

theorem refl (s : State) : StaysOut s s := ⟨⟨rfl, rfl, rfl, rfl, rfl, rfl, rfl, rfl⟩, .refl _, rfl, fun _ h => h⟩

theorem trans (h : StaysOut s t) (g : StaysOut t u) : StaysOut s u :=
  ⟨⟨g.loader.trans h.loader, g.tagger.trans h.tagger, g.filter.trans h.filter, g.sources.trans h.sources,
    g.check.trans h.check, g.time.trans h.time, g.roll.trans h.roll, g.rollIn.trans h.rollIn⟩,
    g.codes.trans h.codes, g.commandIn.trans h.commandIn, fun b hb => h.receiver b (g.receiver b hb)⟩

/-- The parts that the law says nothing of. -/
theorem parts (s : State) (pins : Pins) (handed : PerRing (List Handed)) (pool : Pool) (egress : PerPort Egress)
    (repeater : PerRing Direction) (slots : Vector Slot 32) : StaysOut s { s with
      pins := pins, handed := handed, pool := pool, egress := egress, repeater := repeater, slots := slots } :=
  ⟨⟨rfl, rfl, rfl, rfl, rfl, rfl, rfl, rfl⟩, .refl _, rfl, fun _ h => h⟩

theorem of_sameBut (h : SameBut s t) (hroll : t.roll = s.roll)
    (hcodes : (t.report.queue.map Command.code).Sublist (s.report.queue.map Command.code)) : StaysOut s t :=
  ⟨.of_sameBut h hroll, hcodes, h.commandIn, fun b hb => by rwa [State.port, h.ports] at hb⟩

/-- The report unit changes, but for its queue. -/
theorem report {r : ReportUnit} (hq : r.queue = s.report.queue) : StaysOut s { s with report := r } :=
  .of_sameBut (.parts s r s.pool s.egress s.roll) rfl (by rw [hq])

theorem setPort {p : Port} {v : PortUnit} (hv : ∀ b, v.rx = .storing b → (s.port p).rx = .storing b) :
    StaysOut s (s.setPort p v) :=
  ⟨⟨rfl, rfl, rfl, rfl, rfl, rfl, rfl, rfl⟩, .refl _, rfl, fun b hb => by
    rw [port_setPort] at hb
    split at hb
    · next hp => exact hp ▸ hv b hb
    · exact hb⟩

theorem note (i : Item) (s : State) : StaysOut s (note i s) := by
  rw [note_eq]
  exact .report (note_queue i s)

theorem noteIf (c : Bool) (i : Item) (s : State) : StaysOut s (noteIf c i s) := by
  cases c
  · exact .refl s
  · exact .note i s

theorem entryEnded (m : Mark) (s : State) : StaysOut s (entryEnded m s) := by
  rw [entryEnded_eq]
  exact .report rfl

theorem updateSlot (n : Nat) (w : Slot) (s : State) : StaysOut s (updateSlot n w s) :=
  (StaysOut.parts s s.pins s.handed s.pool s.egress s.repeater _).trans (.noteIf ..)

theorem dropReception (p : Port) (s : State) : StaysOut s (dropReception p s) := by
  rw [dropReception_eq]
  exact .parts s s.pins s.handed _ s.egress _ s.slots

theorem indEvent (p : Port) (k : IndEvent) (s : State) : StaysOut s (indEvent p k s) := by
  unfold Machine.indEvent
  split
  · exact .refl s
  · have hport (i : Indications) (f : WindowFlags) : StaysOut s (s.setPort p { s.port p with ind := i, flags := f }) :=
      .setPort fun _ h => h
    exact (hport ..).trans (.noteIf ..)

/-! Transmissions and the repeater -/

theorem releases (es : List Entry) (s : State) : StaysOut s (es.foldl (fun t e => release e.buf t) s) := by
  obtain ⟨q, hq⟩ := releases_eq es s
  rw [hq]
  exact .parts s s.pins s.handed q s.egress s.repeater s.slots

theorem setEg (p : Port) (e : Egress) (s : State) : StaysOut s (s.setEg p e) :=
  .parts s s.pins s.handed s.pool _ s.repeater s.slots

theorem startTransmission (p : Port) (e : Entry) (s : State) : StaysOut s (startTransmission p e s) := .setEg ..

theorem choose (p : Port) (s : State) : StaysOut s (choose p s) := by
  unfold Machine.choose chooseLower
  dsimp only
  split
  · exact (StaysOut.setEg ..).trans (.startTransmission ..)
  · generalize ht : List.foldl _ _ _ = t
    have hreleased : StaysOut s t := ht ▸ (StaysOut.setEg ..).trans (.releases ..)
    split
    · exact hreleased.trans ((StaysOut.setEg ..).trans (.startTransmission ..))
    · exact hreleased.trans ((StaysOut.setEg ..).trans (.startTransmission ..))
    · exact hreleased

theorem startRepeat (out : RingPort) (s : State) : StaysOut s (startRepeat out s) := by
  obtain h | ⟨d, e, h⟩ := startRepeat_cases out s <;> rw [h]
  · exact .refl s
  · exact .parts s s.pins s.handed s.pool _ _ s.slots

theorem repeatEnd (p : RingPort) (f : Bool) (bytes : List Byte) (s : State) : StaysOut s (repeatEnd p f bytes s) := by
  unfold Machine.repeatEnd
  split
  · exact .parts s s.pins s.handed s.pool s.egress _ s.slots
  · exact (StaysOut.parts s s.pins s.handed s.pool s.egress _ s.slots).trans (.startRepeat ..)

/-! Replies -/

theorem sendLocal_queue (b : Nat) (c : List Byte) (r : Bool) (s : State) :
    (sendLocal b c r s).report.queue = s.report.queue := by
  obtain ⟨-, h⟩ | ⟨-, -, h⟩ | ⟨-, -, h⟩ :=
    enqueue_cases .tap .bulk b (.localFrame r) (fillBuffer b (pad60 c) false s) <;>
    simp only [sendLocal, h, entryEnded_eq] <;> rfl

theorem repliedQueue_codes (k : Command) (rest : List Command) :
    ((repliedQueue k rest).map Command.code).Sublist ((k :: rest).map Command.code) := by
  unfold repliedQueue
  split
  · exact .refl _
  · exact List.sublist_cons_self ..

/-- A reply leaves the head of the queue in place or takes it away (R182, R183). -/
theorem headReplied (s : State) : StaysOut s (headReplied s) := by
  cases hq : s.report.queue with
  | nil =>
    unfold Machine.headReplied
    rw [hq]
    exact .refl s
  | cons k rest =>
    rw [headReplied_eq hq]
    exact .of_sameBut (.parts s _ s.pool s.egress s.roll) rfl (hq ▸ repliedQueue_codes k rest)

theorem composeReply (s : State) : StaysOut s (composeReply s) := by
  unfold Machine.composeReply
  split
  · exact .refl s
  · split
    · exact .refl s
    · split
      · exact .refl s
      · unfold composeLocal
        obtain ⟨-, h⟩ | ⟨-, h⟩ := generatorTake_cases .bulk s <;> rw [h]
        · have htake (q : Pool) : StaysOut s { s with pool := q } :=
            .parts s s.pins s.handed q s.egress s.repeater s.slots
          have hsend (v : State) (b : Nat) (c : List Byte) (r : Bool) : StaysOut v (sendLocal b c r v) :=
            .of_sameBut (.sendLocal ..) (enqueue_roll ..) (by rw [sendLocal_queue])
          exact (((htake _).trans (hsend ..)).trans (.headReplied _)).trans (.report rfl)
        · have hrefused : SameBut s (restartHold { s with pool := { s.pool with refused := raise s.pool.refused } }) :=
            .parts s _ _ s.egress s.roll
          exact .of_sameBut hrefused rfl (.refl _)

/-- A command carried out takes its result, and the effect is its own (R182). -/
theorem fixResult (r : CommandResult) (s : State) : StaysOut s (fixResult r s) := by
  unfold Machine.fixResult
  split
  · exact .refl s
  · next k rest hq => exact .of_sameBut (.parts s _ s.pool s.egress s.roll) rfl (by rw [hq]; exact .refl _)

end StaysOut

/-! ### The law out of the ring -/

namespace State.OutLaw
variable {s t : State}

/-- The law holds of every member of the ring. -/
theorem of_member (h : t.member = true) : t.OutLaw := fun hm => absurd (h.symm.trans hm) nofun

/-- The units' values are kept, and the commands are RESTART alone: none before TRANSIT. -/
theorem of_units (h : s.OutLaw) (hm : s.member = false) (hu : LeavesUnits s t)
    (hcodes : ∀ c ∈ t.report.queue, c.code = 5)
    (hbefore : s.loader.nodeState ≠ .transit →
      t.report.queue = [] ∧ t.commandIn = [] ∧ ∀ b, (t.port .tap).rx ≠ .storing b) : t.OutLaw := by
  intro _
  obtain ⟨htagger, hfilter, hsources, hcheck, htime, hroll, hrollIn, -⟩ := h hm
  rw [hu.loader]
  exact ⟨hu.tagger.trans htagger, hu.filter.trans hfilter, hu.sources.trans hsources, hu.check.trans hcheck,
    hu.time.trans htime, hu.roll.trans hroll, hu.rollIn.trans hrollIn, hcodes, hbefore⟩

theorem of_stays (h : s.OutLaw) (hs : StaysOut s t) : t.OutLaw := by
  cases hm : s.member with
  | true => exact of_member (by simpa only [State.member, hs.loader] using hm)
  | false =>
    obtain ⟨-, -, -, -, -, -, -, hcodes, hbefore⟩ := h hm
    refine h.of_units hm hs.toLeavesUnits (fun c hc => ?_) fun hn => ?_
    · obtain ⟨k, hk, hkc⟩ := List.mem_map.mp (hs.codes.subset (List.mem_map_of_mem hc))
      exact hkc ▸ hcodes k hk
    · obtain ⟨hqueue, hcommand, hrx⟩ := hbefore hn
      refine ⟨?_, hs.commandIn.trans hcommand, fun b hb => hrx b (hs.receiver b hb)⟩
      have hnone := hs.codes
      rw [hqueue] at hnone
      simpa using hnone

theorem started (h : s.Started) : s.OutLaw := by
  intro _
  obtain ⟨-, hports, -, hrollIn, hcommand, htagger, hfilter, hsources, -, -, -, -, hcheck, htime, hroll, hreport, -⟩ :=
    h
  refine ⟨htagger, hfilter, hsources, hcheck, htime, hroll, hrollIn, ?_, fun _ => ⟨?_, hcommand, ?_⟩⟩
  · rw [hreport]
    exact nofun
  · rw [hreport]
  · rw [hports]
    exact nofun

/-- Before the end of LOADING the loader may decide and place what it likes. -/
theorem loads (h : s.OutLaw) (hn : s.loader.nodeState = .reset ∨ s.loader.nodeState = .loading) (l : Loader)
    (w : Vector Slot 32) : ({ s with loader := l, slots := w } : State).OutLaw := by
  intro _
  have hm : s.member = false := by obtain hn | hn := hn <;> simp [State.member, hn]
  obtain ⟨htagger, hfilter, hsources, hcheck, htime, hroll, hrollIn, hcodes, hbefore⟩ := h hm
  refine ⟨htagger, hfilter, hsources, hcheck, htime, hroll, hrollIn, hcodes, fun _ => hbefore ?_⟩
  obtain hn | hn := hn <;> simp [hn]

theorem settle (h : s.OutLaw) : (settle s).OutLaw := by
  obtain ⟨-, hend⟩ | ⟨-, hm, -, hend⟩ | ⟨-, -, hend⟩ := settle_cases s <;> rw [hend]
  · exact .started (takeStart_started ..)
  · refine of_member ?_
    have hloader : (followConditions (composeWaiting s)).loader = s.loader := (SameBut.composeWaiting s).loader
    simpa only [State.member, hloader] using hm
  · exact h.of_stays (.report rfl)

end State.OutLaw

end Sys2Proof.Machine
end

section
/-! ## What one command does to a node out of the ring, and to the loader of a run (R168, R179, R180) -/

namespace Sys2Proof.Machine

/-! ### Receptions and the tap path -/

section Reception
variable {p : Port} {s : State}

theorem StaysOut.repeatStart (p : RingPort) (s : State) : StaysOut s (repeatStart p s) := by
  have htakes (d : Direction) (v : PortUnit) (hv : ∀ b, v.rx ≠ .storing b) :
      StaysOut s ((s.setDir p d).setPort p.port v) :=
    (StaysOut.parts s s.pins s.handed s.pool s.egress (s.repeater.set p d) s.slots).trans
      (.setPort fun b hb => absurd hb (hv b))
  unfold Machine.repeatStart
  dsimp only
  split
  · exact htakes _ _ nofun
  · split
    · exact htakes _ _ nofun
    · exact .setPort nofun

/-- A frame that starts out of the ring is stored at the tap port in TRANSIT alone (R4). -/
theorem State.OutLaw.startReception (h : s.OutLaw) (hm : s.member = false) (hn : s.loader.nodeState ≠ .reset)
    (p : Port) : (startReception p s).OutLaw := by
  unfold Machine.startReception
  cases hp : p.ring? with
  | some r =>
    dsimp only
    rw [if_neg (by simp [hm])]
    exact h.of_stays (.repeatStart r s)
  | none =>
    dsimp only
    split
    · exact h.of_stays (.setPort nofun)
    · next hl =>
      have htransit : s.loader.nodeState = .transit := by
        have hout := mt (State.member_iff s).mpr (by simp [hm])
        cases hs : s.loader.nodeState <;> simp_all
      unfold storeStart
      split
      · have hport (v : PortUnit) (hv : ∀ b, v.rx ≠ .storing b) : StaysOut s (s.setPort p v) :=
          .setPort fun b hb => absurd hb (hv b)
        have hfirst := hport { s.port p with rx := .discarding false } nofun
        have hsecond : StaysOut (setRx p (.discarding false) s) ((setRx p (.discarding false) s).countPort p
            fun k => { k with noBuffer := raise k.noBuffer }) := .setPort fun _ h => h
        exact h.of_stays ((hfirst.trans hsecond).trans (.indEvent ..))
      · obtain ⟨-, -, -, -, -, -, -, hcodes, -⟩ := h hm
        exact h.of_units hm ⟨rfl, rfl, rfl, rfl, rfl, rfl, rfl, rfl⟩ hcodes fun hno => absurd htransit hno

/-- A frame from the tap becomes a node command or is released: a node out of the ring originates none (R22). -/
theorem State.OutLaw.tapPath (h : s.OutLaw) (hm : s.member = false) (ht : s.loader.nodeState = .transit) (b : Nat)
    (f : List Byte) : (tapPath b f s).OutLaw := by
  unfold Machine.tapPath
  split
  · obtain ⟨-, -, -, -, -, -, -, hcodes, -⟩ := h hm
    exact h.of_units hm ⟨rfl, rfl, rfl, rfl, rfl, rfl, rfl, rfl⟩ hcodes fun hno => absurd ht hno
  · rw [if_neg (by simp [hm])]
    exact h.of_stays (.parts s s.pins s.handed _ s.egress s.repeater s.slots)

theorem StaysOut.countOutcome (p : Port) (o : FrameOutcome) (s : State) : StaysOut s (countOutcome p o s) :=
  .setPort nofun

/-- A frame that ends out of the ring (R8, R9). -/
theorem State.OutLaw.endFrame (h : s.OutLaw) (hm : s.member = false) (p : Port) (bytes : List Byte) (steps : Nat) :
    (endFrame p bytes steps s).OutLaw := by
  unfold Machine.endFrame
  dsimp only
  split
  · generalize ho : frameOutcome p _ bytes steps = o
    have hcounted := StaysOut.countOutcome p o s
    unfold intactFrame
    split
    · next b hrx =>
      let u : State := fillBuffer b bytes true
        ((Machine.countOutcome p o s).countPort p fun k => { k with rxGood := raise k.rxGood })
      have hu : StaysOut s u := by
        have hgood : StaysOut (Machine.countOutcome p o s)
            ((Machine.countOutcome p o s).countPort p fun k => { k with rxGood := raise k.rxGood }) :=
          .setPort fun _ h => h
        exact (hcounted.trans hgood).trans (.parts _ _ _ _ _ _ _)
      unfold handOn
      cases hp : p.ring? with
      | some r => exact h.of_stays (hu.trans (.parts u u.pins _ u.pool u.egress u.repeater u.slots))
      | none =>
        obtain rfl : p = .tap := by cases p <;> simp_all [Port.ring?]
        have htransit : s.loader.nodeState = .transit := by
          by_contra hno
          obtain ⟨-, -, -, -, -, -, -, -, hbefore⟩ := h hm
          exact (hbefore hno).2.2 b hrx
        exact (h.of_stays hu).tapPath (by simpa only [State.member, hu.loader] using hm)
          (by rw [hu.loader]; exact htransit) b bytes
    · exact h.of_stays (hcounted.trans (.repeatEnd ..))
    · exact h.of_stays (hcounted.trans (.parts _ _ _ _ _ _ _))
    · exact h.of_stays hcounted
  · exact h.of_stays ((StaysOut.dropReception p s).trans (.countOutcome ..))

end Reception

/-! ### Falls and node commands -/

/-- The fall of a port out of the ring breaks no lane (R136). -/
theorem StaysOut.portFalls {s : State} (hm : s.member = false) (p : Port) : StaysOut s (portFalls p s) := by
  have hbreaks : (breakLanes s).check = s.check := by
    unfold breakLanes
    rw [if_neg (by simp [hm])]
  have hfallen : StaysOut s (fallen p s) := by
    rw [fallen_eq]
    refine ⟨⟨rfl, rfl, rfl, rfl, ?_, rfl, rfl, rfl⟩, .refl _, rfl, fun b hb => ?_⟩
    · dsimp only
      split
      · exact hbreaks
      · rfl
    · cases p
      case tap => exact absurd hb nofun
      all_goals exact hb
  have htold : StaysOut s (Machine.note (.port p) (fallen p s)) := hfallen.trans (.note ..)
  have hsame : s.check.changedItems (Machine.note (.port p) (fallen p s)).check = [] := by
    simp [RingCheck.changedItems, htold.check]
  unfold Machine.portFalls
  rw [tellLanes_eq_notes _ _ (.inl (by rw [htold.check])), hsame]
  exact htold

/-- In TRANSIT the report unit keeps a RESTART command and no other, and before it no frame is handed to it (R180). -/
theorem State.OutLaw.readCommand {s : State} (h : s.OutLaw) (hm : s.member = false) {b : Nat} {rest : List Nat}
    (hc : s.commandIn = b :: rest) :
    (readCommand (s.buffer b).bytes (release b { s with commandIn := rest })).OutLaw := by
  obtain ⟨-, -, -, -, -, -, -, hcodes, hbefore⟩ := h hm
  have htransit : s.loader.nodeState = .transit := by
    by_contra hno
    obtain ⟨-, hnone, -⟩ := hbefore hno
    exact absurd (hc.symm.trans hnone) nofun
  have hreads (t : State) (hu : LeavesUnits s t) (hq : ∀ c ∈ t.report.queue, c.code = 5) : t.OutLaw :=
    h.of_units hm hu hq fun hno => absurd htransit hno
  unfold Machine.readCommand
  split
  · exact hreads _ ⟨rfl, rfl, rfl, rfl, rfl, rfl, rfl, rfl⟩ hcodes
  · next hkept =>
    split
    · exact hreads _ ⟨rfl, rfl, rfl, rfl, rfl, rfl, rfl, rfl⟩ hcodes
    · refine hreads _ ⟨rfl, rfl, rfl, rfl, rfl, rfl, rfl, rfl⟩ fun c hc => ?_
      have hcode : commandCode (s.buffer b).bytes = 5 := by
        simp only [isIgnored, Bool.or_eq_true, not_or, release_loader, htransit] at hkept
        simpa using hkept.2
      obtain hc | hc := List.mem_append.mp hc
      · exact hcodes c hc
      · rw [List.mem_singleton.mp hc]
        exact hcode

/-! ### The loader -/

/-! What the law says of a unit -/

section Units
variable {s : State} (h : s.OutLaw) (hm : s.member = false)
include h hm

theorem State.OutLaw.filter : s.filter = {} := (h hm).2.1

theorem State.OutLaw.record (node : Nat) : s.record node = {} := by
  obtain ⟨-, -, hsources, -⟩ := h hm
  rw [State.record, hsources, Vector.getElem?_replicate]
  split <;> rfl

theorem State.OutLaw.check : s.check = {} := by
  obtain ⟨-, -, -, hcheck, -⟩ := h hm
  exact hcheck

theorem State.OutLaw.time : s.time = {} := by
  obtain ⟨-, -, -, -, htime, -⟩ := h hm
  exact htime

theorem State.OutLaw.roll : s.roll = {} := by
  obtain ⟨-, -, -, -, -, hroll, -⟩ := h hm
  exact hroll

theorem State.OutLaw.rollIn : s.rollIn = [] := by
  obtain ⟨-, -, -, -, -, -, hrollIn, -⟩ := h hm
  exact hrollIn

end Units

/-- A node out of the ring holds no roll to take. -/
theorem State.OutLaw.not_of_roll {s : State} {c : RollIn → Bool} {r : RollIn × List RollIn}
    (htaken : takeFirst c s.rollIn = some r) (hm : s.member = false) : ¬ s.OutLaw := fun h =>
  absurd htaken (by rw [h.rollIn hm]; nofun)

section Loading
variable {s : State} (h : s.OutLaw) (hn : s.loader.nodeState = .loading)
include h hn

theorem State.OutLaw.endLoading (l : Loader) : (endLoading { s with loader := l }).OutLaw := by
  unfold Machine.endLoading
  split
  · exact h.loads (.inr hn) _ s.slots
  · next d _ =>
    have hfixed : (fixConfiguration d { s with loader := l }).OutLaw := h.loads (.inr hn) _ _
    have hnoted := hfixed.of_stays (.note .nodeState _)
    dsimp only
    split
    · next hm =>
      obtain ⟨hsame, -⟩ := startMember_spec (note .nodeState (fixConfiguration d { s with loader := l }))
      exact .of_member ((congrArg (fun l : Loader => l.nodeState == .running || l.nodeState == .fallback)
        hsame.loader).trans hm)
    · exact hnoted

theorem State.OutLaw.imageDecided (l : Loader) : (imageDecided l s).OutLaw := by
  unfold Machine.imageDecided
  dsimp only
  split
  · exact h.loads (.inr hn) _ s.slots
  · split
    · exact h.endLoading hn l
    · exact h.loads (.inr hn) _ s.slots

theorem State.OutLaw.endAttempt (r : ImageStatus × List Byte) (ops : List BusOp) : (endAttempt r ops s).OutLaw := by
  unfold Machine.endAttempt
  dsimp only
  split
  · exact h.imageDecided hn _
  · split
    · exact h.loads (.inr hn) _ s.slots
    · exact h.imageDecided hn _

theorem State.OutLaw.endEpochRead (failed : Nat) (read : EpochRead) : (endEpochRead failed read s).OutLaw := by
  unfold Machine.endEpochRead
  dsimp only
  split
  · exact h.loads (.inr hn) _ s.slots
  · split <;> exact h.loads (.inr hn) _ s.slots

theorem State.OutLaw.endEpochWrite (failure : Option BusFailure) : (endEpochWrite failure s).OutLaw := by
  cases failure with
  | none => exact h.loads (.inr hn) _ s.slots
  | some f => exact h.endLoading hn _

end Loading

/-! ### Every command -/

/-- What a command has done when it ends: the loader of a run is left, and a node out of the ring keeps its law. -/
structure Effect (s u : State) : Prop where
  loader : s.loader.nodeState ≠ .reset → s.loader.nodeState ≠ .loading → u.loader = s.loader
  out : s.OutLaw → u.OutLaw

namespace Effect
variable {s u : State}

theorem of_stays (h : StaysOut s u) : Effect s u := ⟨fun _ _ => h.loader, fun ho => ho.of_stays h⟩

theorem refl (s : State) : Effect s s := .of_stays (.refl s)

/-- An effect that leaves the loader has the law to keep in a node out of the ring alone. -/
theorem of_loader (hl : u.loader = s.loader) (ho : s.member = false → s.OutLaw → u.OutLaw) : Effect s u := by
  refine ⟨fun _ _ => hl, fun h => ?_⟩
  cases hm : s.member with
  | true => exact .of_member (by simpa only [State.member, hl] using hm)
  | false => exact ho hm h

/-- An effect that only a ring member has. -/
theorem in_ring (hl : u.loader = s.loader) (ho : s.member = false → ¬ s.OutLaw) : Effect s u :=
  .of_loader hl fun hm h => absurd h (ho hm)

theorem loading (hn : s.loader.nodeState = .loading) (ho : s.OutLaw → u.OutLaw) : Effect s u :=
  ⟨fun _ hno => absurd hn hno, ho⟩

end Effect

/-- A command is a start, or ends with such an effect. -/
def Effective (s : State) (o : Host.Outcome State Fault Refusal) : Prop :=
  (∃ c u, o = .next (takeStart c u)) ∨ ∃ u, o = .next (settle u) ∧ Effect s u

theorem finish_effective {s u : State} (h : Effect s u) : Effective s (finish u) := .inr ⟨u, rfl, h⟩

/-- An effect under a condition. -/
theorem finish_effective_if {s u : State} {c : Prop} [Decidable c] (h : c → Effect s u) :
    Effective s (finish (if c then u else s)) := by
  refine finish_effective ?_
  split
  · exact h ‹c›
  · exact .refl s

/-- Of the commands at the head of the queue, a node out of the ring carries out RESTART alone (R180). -/
theorem carryOut_effective {code : Byte → Bool} {effect : State → State} {s : State} (result : State → CommandResult)
    (hcode : code 5 = false) (hl : (effect s).loader = s.loader) : Effective s (carryOut code effect result s) := by
  refine finish_effective ?_
  split
  · next hhead =>
    have hloader := ((StaysOut.fixResult (result s) (effect s)).trans (.composeReply _)).loader
    refine .in_ring (hloader.trans hl) fun hm ho => ?_
    obtain ⟨-, -, -, -, -, -, -, hcodes, -⟩ := ho hm
    unfold State.headIs at hhead
    split at hhead
    · cases hhead
    · next k rest hq =>
      have hk := hcodes k (by rw [hq]; exact List.mem_cons_self)
      rw [hk, hcode] at hhead
      cases hhead
  · exact .refl s

theorem exec_effective (c : Instr) (s : State) : Effective s (exec c s) := by
  cases c with
  | powerOn => exact .inl ⟨_, _, rfl⟩
  | rstFall => exact .inl ⟨_, _, rfl⟩
  | rstRise straps =>
    refine finish_effective ?_
    split
    · next hn => exact ⟨fun hno => absurd hn hno, fun h => h.loads (s := { s with
        pins := { s.pins with rst := true, straps := straps } }) (.inl hn) _ s.slots⟩
    · exact .of_stays (.parts s _ s.handed s.pool s.egress s.repeater s.slots)
  | linkFall p =>
    have hlink : StaysOut s (setLink p false s) := .parts s _ s.handed s.pool s.egress s.repeater s.slots
    refine finish_effective ?_
    split
    · exact .of_stays (hlink.trans (.setPort fun _ h => h))
    · refine .of_loader ?_ fun hm h => h.of_stays (hlink.trans (.portFalls (by exact hm) p))
      exact (portFalls_sameBut p _).loader.trans (by rw [fallen_eq]; rfl)
  | linkRise p =>
    have hlink : StaysOut s (setLink p true s) := .parts s _ s.handed s.pool s.egress s.repeater s.slots
    refine finish_effective ?_
    split
    · exact .of_stays (hlink.trans (.setPort fun _ h => h))
    · exact .of_stays hlink
  | qualificationExpiry p =>
    refine finish_effective_if fun _ => ?_
    have hup (w : Timer) : StaysOut s (s.setPort p ((s.port p).enterUp w)) := .setPort fun _ h => h
    exact .of_stays ((hup _).trans (.note ..))
  | scanWindowEnd p =>
    refine finish_effective_if fun _ => ?_
    have hjudged (e g n : Nat) : StaysOut s (s.setPort p ((s.port p).judgeWindow p e g n)) := .setPort fun _ h => h
    exact .of_stays ((hjudged ..).trans (.noteIf ..))
  | frameStart p =>
    refine finish_effective ?_
    split
    · exact .refl s
    · next hno =>
      obtain ⟨hn, hd, hrx⟩ := not_or.mp hno |>.imp_right not_or.mp
      exact .of_loader ((loader_kept _).startReception p (by simpa using hd) (by simpa using hrx) rfl)
        fun hm h => h.startReception hm hn p
  | giant p =>
    have hmarked (r : Receiver) (b : Nat) : r.markGiant ≠ .storing b := by cases r <;> exact nofun
    exact finish_effective (.of_stays ((StaysOut.dropReception p s).trans
      (.setPort fun b hb => absurd hb (hmarked _ b))))
  | frameEnd p bytes steps =>
    refine finish_effective ?_
    split
    · exact .refl s
    · next hrx =>
      exact .of_loader ((loader_kept _).endFrame p bytes steps hrx rfl) fun hm h => h.endFrame hm p bytes steps
  | ringFilter p =>
    obtain ⟨u, hu, hevent⟩ := exec_ringFilter_ringEvent p s
    cases hm : s.member with
    | true => exact .inr ⟨u, hu, .of_loader hevent.loader fun ho => absurd (hm.symm.trans ho) nofun⟩
    | false => exact .inr ⟨s, exec_ringFilter_of_not (.inl hm), .refl s⟩
  | peerRoll p =>
    refine finish_effective ?_
    split
    · exact .refl s
    · next r rest htaken =>
      dsimp only
      split
      · exact .in_ring ((loader_kept _).homewardRoll p _ rfl) (State.OutLaw.not_of_roll htaken)
      · exact .in_ring ((loader_kept _).outwardRoll p _ rfl) (State.OutLaw.not_of_roll htaken)
  | ownRoll p =>
    refine finish_effective ?_
    split
    · exact .refl s
    · next r rest htaken =>
      dsimp only
      split
      · exact .in_ring rfl (State.OutLaw.not_of_roll htaken)
      · next hlate =>
        simp only [isLateRoll, Bool.or_eq_true, not_or] at hlate
        obtain ⟨⟨hrunning, -⟩, -⟩ := hlate
        split
        · exact .in_ring rfl (State.OutLaw.not_of_roll htaken)
        · next hfits =>
          exact .in_ring ((loader_kept _).takeRoll p _ _ _ (by simpa using hrunning) (by simpa using hfits) rfl)
            (State.OutLaw.not_of_roll htaken)
  | rollTimeoutExpiry =>
    refine finish_effective_if fun hrunning => ?_
    rw [Bool.and_eq_true] at hrunning
    exact .in_ring (SameBut.endRound _).loader fun hm h => absurd hrunning.1 (by rw [h.roll hm]; nofun)
  | transmitterFree p => exact finish_effective_if fun _ => .of_stays ((StaysOut.setEg ..).trans (.choose ..))
  | transmissionComplete p =>
    refine finish_effective ?_
    split
    · split
      · exact .of_stays ((StaysOut.parts s s.pins s.handed _ _ s.repeater s.slots).trans (.entryEnded ..))
      · exact .refl s
    · exact .refl s
  | repeaterTxComplete out =>
    refine finish_effective ?_
    split
    · split
      · exact .of_stays (.parts s s.pins s.handed s.pool _ _ s.slots)
      · exact .refl s
    · exact .refl s
  | clashHoldExpiry =>
    refine finish_effective_if fun hdue => ?_
    exact .in_ring (SameBut.noteIf ..).loader fun hm h => absurd hdue (by rw [h.filter hm]; nofun)
  | silenceExpiry node =>
    refine finish_effective ?_
    dsimp only
    split
    · next hlive =>
      obtain ⟨-, -, hlive, -⟩ := hlive
      exact .in_ring (note_loader ..) fun hm h => absurd hlive (by rw [h.record hm]; nofun)
    · exact .refl s
  | streamTimerExpiry slot => exact finish_effective_if fun _ => .of_stays (.updateSlot ..)
  | laneTimerExpiry slot lane => exact finish_effective_if fun _ => .of_stays (.updateSlot ..)
  | startDeadlineExpiry slot => exact finish_effective_if fun _ => .of_stays (.updateSlot ..)
  | checkPeriodExpiry =>
    obtain ⟨u, hu, hevent⟩ := exec_checkPeriodExpiry_ringEvent s
    cases hdue : s.clock.due s.check.period with
    | true => exact .inr ⟨u, hu, .in_ring hevent.loader fun hm h => absurd hdue (by rw [h.check hm]; nofun)⟩
    | false => exact .inr ⟨s, exec_checkPeriodExpiry_of_not hdue, .refl s⟩
  | timePeriodExpiry =>
    refine finish_effective_if fun hdue => ?_
    exact .in_ring ((loader_kept _).sendTime rfl) fun hm h => absurd hdue (by rw [h.time hm]; nofun)
  | nodeCommand =>
    refine finish_effective ?_
    split
    · exact .refl s
    · next hc =>
      refine .of_loader ?_ fun hm h => h.readCommand hm hc
      unfold readCommand
      dsimp only
      split
      · rfl
      · split <;> rfl
  | report =>
    rw [exec_report]
    exact carryOut_effective _ rfl rfl
  | roll =>
    change Effective s (execRoll s)
    unfold execRoll
    refine carryOut_effective _ rfl ?_
    split
    · rfl
    · exact (SameBut.startRound ..).loader
  | haltRoll =>
    change Effective s (execHaltRoll s)
    unfold execHaltRoll
    exact carryOut_effective _ rfl ((loader_kept _).haltRound rfl)
  | zero =>
    rw [exec_zero]
    exact carryOut_effective _ rfl rfl
  | restart => exact finish_effective_if fun _ => .of_stays ((StaysOut.fixResult ..).trans (.composeReply _))
  | badCommand =>
    rw [exec_badCommand]
    exact carryOut_effective _ rfl rfl
  | reportHoldExpiry =>
    refine finish_effective_if fun _ => ?_
    have hreply (r : ReportUnit) (hr : r.queue = s.report.queue) : StaysOut s (composeReply { s with report := r }) :=
      (StaysOut.report hr).trans (.composeReply _)
    dsimp only
    split
    · next hm =>
      have hloader := (hreply { s.report with hold := none } rfl).loader
      refine .of_loader ((SameBut.composeWaiting _).loader.trans hloader) fun hno => ?_
      rw [State.member, hloader] at hm
      exact absurd (hm.symm.trans hno) nofun
    · exact .of_stays (hreply _ rfl)
  | reportPeriodExpiry => exact finish_effective_if fun _ => .of_stays (.report rfl)
  | imageReadAttempt read =>
    refine finish_effective_if fun hin => ?_
    have hn := (State.loadingIn_state hin).1
    exact .loading hn fun h => h.endAttempt hn _ _
  | epochReadAttempt read =>
    refine finish_effective ?_
    split
    · next hn _ => exact .loading hn fun h => h.endEpochRead hn _ _
    · exact .refl s
  | epochWrite failure =>
    refine finish_effective_if fun hin => ?_
    have hn := (State.loadingIn_state hin).1
    exact .loading hn fun h => h.endEpochWrite hn _
  | epochPoll acked =>
    refine finish_effective_if fun hin => ?_
    have hn := (State.loadingIn_state hin).1
    dsimp only
    split
    · exact .loading hn fun h => h.endLoading hn _
    · exact .loading hn fun h => h.loads (.inr hn) _ s.slots
  | epochPollTimeout =>
    refine finish_effective_if fun hin => ?_
    rw [Bool.and_eq_true] at hin
    have hn := (State.loadingIn_state hin.1).1
    exact .loading hn fun h => h.endLoading hn _
  | repeaterTransmitterFree out => exact finish_effective (.of_stays (.startRepeat ..))

/-! ### Every step -/

theorem takeStart_nodeState (c : StartCause) (s : State) :
    (takeStart c s).loader.nodeState = .reset ∨ (takeStart c s).loader.nodeState = .loading := by
  unfold takeStart
  cases c <;> cases s.pins.rst
  case power.false | line.false | line.true => exact .inl rfl
  all_goals exact .inr rfl

theorem State.sameRun.of_start (s : State) (c : StartCause) (u : State) : s.sameRun (takeStart c u) :=
  .inr ((takeStart_nodeState c u).imp_right fun hn => ⟨hn, takeStart_started c u⟩)

theorem State.sameRun.settle {s u : State} (h : u.loader = s.loader) : s.sameRun (settle u) := by
  obtain ⟨-, hend⟩ | ⟨hstay, -⟩ | ⟨hstay, -⟩ := settle_cases u
  · exact hend ▸ .of_start ..
  · exact .inl ((SameBut.settle hstay).loader.trans h)
  · exact .inl ((SameBut.settle hstay).loader.trans h)

/-- A command keeps the law out of the ring, and the loader of a run but for a start. -/
theorem exec_outLaw_sameRun (c : Instr) {s t : State} (hexec : exec c s = .next t) : (s.OutLaw → t.OutLaw) ∧
    (s.loader.nodeState ≠ .reset → s.loader.nodeState ≠ .loading → s.sameRun t) := by
  obtain ⟨cause, u, hstart⟩ | ⟨u, hend, heffect⟩ := exec_effective c s
  · obtain rfl : t = takeStart cause u := Host.Outcome.next.inj (hexec.symm.trans hstart)
    exact ⟨fun _ => .started (takeStart_started ..), fun _ _ => .of_start ..⟩
  · obtain rfl : t = settle u := Host.Outcome.next.inj (hexec.symm.trans hend)
    exact ⟨fun h => (heffect.out h).settle, fun hr hl => .settle (heffect.loader hr hl)⟩

theorem step_outLaw_sameRun {s t : State} (hstep : step s = .next t) : (s.OutLaw → t.OutLaw) ∧
    (s.loader.nodeState ≠ .reset → s.loader.nodeState ≠ .loading → s.sameRun t) := by
  unfold step at hstep
  split at hstep
  · obtain rfl : s.tick = t := Host.Outcome.next.inj hstep
    exact ⟨id, fun _ _ => .inl rfl⟩
  · next c rest _ => exact exec_outLaw_sameRun c (s := { s with pending := rest }) hstep

end Sys2Proof.Machine

open Sys2Proof Sys2Proof.Machine

/-- Settles O56: the updates that commands are made of keep the loader's law (`loaderLaw_kept`); a command is a start or
has an effect that leaves the loader of a run and the units of a node out of the ring (`exec_effective`). -/
theorem theConfigurationIsFixedForTheRun : Obligations.TheConfigurationIsFixedForTheRun := fun s t hstep => by
  refine ⟨fun h => ?_, step_outLaw_sameRun hstep⟩
  obtain ⟨u, hu, hlaw⟩ := loaderLaw_kept.step (fun _ _ h => h) (fun _ h => h) h
  obtain rfl : u = t := Host.Outcome.next.inj (hu.symm.trans hstep)
  exact hlaw

end

section
/-! ## The image read attempt, judged (R171, R172, R176, R177) -/

namespace Sys2Proof.Machine

/-! ### The bytes read, and the checks of R172 on them -/

section Checks
variable {given : List Byte}

theorem readBytes_of_le {n : Nat} (h : n ≤ given.length) : readBytes given n = given.take n := by
  rw [readBytes, Nat.sub_eq_zero_of_le h]
  exact List.append_nil _

theorem fieldAt_take {i n m : Nat} (h : i + n ≤ m) (bs : List Byte) : fieldAt (bs.take m) i n = fieldAt bs i n := by
  rw [fieldAt, fieldAt, List.drop_take, List.take_take, min_eq_left (by omega)]

theorem byteAt_take {i m : Nat} (h : i < m) (bs : List Byte) : byteAt (bs.take m) i = byteAt bs i := by
  simp [byteAt, List.getD_eq_getElem?_getD, List.getElem?_take_of_lt h]

theorem imageLength_header (h : 8 ≤ given.length) : imageLength (readBytes given 8) = fieldAt given 4 2 := by
  rw [readBytes_of_le h]
  exact fieldAt_take (by decide) given

/-- The checks on the header see the first 8 bytes alone. -/
theorem headerFault_header (h : 8 ≤ given.length) : headerFault (readBytes given 8) = headerFault given := by
  unfold headerFault
  rw [imageLength_header h, readBytes_of_le h, fieldAt_take (by decide), byteAt_take (by decide)]
  rfl

/-- The statuses of a failed header check, and of a failed check on the whole image (R172). -/
def ImageStatus.ofHeader (st : ImageStatus) : Prop := st = .badMagic ∨ st = .badFormat ∨ st = .badLength

def ImageStatus.ofBody (st : ImageStatus) : Prop := st = .badCrc ∨ st = .badLayout

theorem headerFault_ofHeader {header : List Byte} {st : ImageStatus} (h : headerFault header = some st) :
    st.ofHeader := by
  unfold headerFault at h
  split at h
  · exact .inl (Option.some.inj h).symm
  · split at h
    · exact .inr (.inl (Option.some.inj h).symm)
    · split at h
      · exact .inr (.inr (Option.some.inj h).symm)
      · cases h

theorem bodyFault_ofBody {image : List Byte} {st : ImageStatus} (h : bodyFault image = some st) : st.ofBody := by
  unfold bodyFault at h
  dsimp only at h
  split at h
  · exact .inl (Option.some.inj h).symm
  · split at h
    · exact .inr (Option.some.inj h).symm
    · cases h

theorem attemptResult_header {st : ImageStatus} (h : headerFault (readBytes given 8) = some st) :
    attemptResult (.bytes given) = (st, []) := by
  simp only [attemptResult, h]

theorem attemptResult_body {st : ImageStatus} (h : headerFault (readBytes given 8) = none)
    (hb : bodyFault (readBytes given (imageLength (readBytes given 8))) = some st) :
    attemptResult (.bytes given) = (st, []) := by
  simp only [attemptResult, h, hb]

theorem attemptResult_image (h : headerFault (readBytes given 8) = none)
    (hb : bodyFault (readBytes given (imageLength (readBytes given 8))) = none) :
    attemptResult (.bytes given) = (.good, readBytes given (imageLength (readBytes given 8))) := by
  simp only [attemptResult, h, hb]

/-- The status of an attempt tells which check failed, and with it how far the transaction read (R171, R172). -/
theorem imageOps_bytes (h : 8 ≤ given.length) :
    let st := (attemptResult (.bytes given)).1
    (st.ofHeader → imageOps (.bytes given) = readAddressing 0 0 ++ [.read 8 false, .stop]) ∧
    (st.ofBody ∨ st = .good → imageOps (.bytes given) =
      readAddressing 0 0 ++ [.read 8 true, .read (fieldAt given 4 2 - 8) false, .stop]) := by
  intro st
  cases hh : headerFault (readBytes given 8) with
  | some r =>
    have hst : st = r := congrArg Prod.fst (attemptResult_header hh)
    refine ⟨fun _ => by simp only [imageOps, hh], fun hbody => ?_⟩
    rw [hst] at hbody
    obtain rfl | rfl | rfl := headerFault_ofHeader hh <;> simp [ImageStatus.ofBody] at hbody
  | none =>
    refine ⟨fun hheader => ?_, fun _ => by simp only [imageOps, hh, imageLength_header h]⟩
    cases hb : bodyFault (readBytes given (imageLength (readBytes given 8))) with
    | some r =>
      have hst : st = r := congrArg Prod.fst (attemptResult_body hh hb)
      rw [hst] at hheader
      obtain rfl | rfl := bodyFault_ofBody hb <;> simp [ImageStatus.ofHeader] at hheader
    | none =>
      have hst : st = .good := congrArg Prod.fst (attemptResult_image hh hb)
      simp [hst, ImageStatus.ofHeader] at hheader

/-- The header checks pass. -/
theorem headerFault_none (hmagic : fieldAt given 0 2 = 0xE6B3) (hformat : byteAt given 2 = 1)
    (hmin : 32 ≤ fieldAt given 4 2) (hmax : fieldAt given 4 2 ≤ 2000) : headerFault given = none := by
  have hlength : ¬ (imageLength given < 32 ∨ 2000 < imageLength given) := by
    unfold imageLength
    omega
  rw [headerFault, if_neg (not_not.mpr hmagic), if_neg (not_not.mpr hformat), if_neg hlength]

/-- Where just the image was read and its header is sound, the checks on the whole image decide (R172). -/
theorem attemptResult_of_header (h : headerFault given = none) (hlen : given.length = fieldAt given 4 2)
    (hmin : 32 ≤ fieldAt given 4 2) :
    (∀ st, bodyFault given = some st → (attemptResult (.bytes given)).1 = st) ∧
    (bodyFault given = none → attemptResult (.bytes given) = (.good, given)) := by
  have h8 : 8 ≤ given.length := by omega
  have hheader : headerFault (readBytes given 8) = none := (headerFault_header h8).trans h
  have himage : readBytes given (imageLength (readBytes given 8)) = given := by
    rw [imageLength_header h8, ← hlen, readBytes_of_le le_rfl, List.take_length]
  refine ⟨fun st hb => congrArg Prod.fst (attemptResult_body hheader (by rw [himage]; exact hb)), fun hb => ?_⟩
  have hgood := attemptResult_image hheader (by rw [himage]; exact hb)
  rwa [himage] at hgood

end Checks

/-! ### The end of an attempt (R171, R176) -/

section Attempt
variable {s : State}

theorem exec_imageReadAttempt (hn : s.loader.nodeState = .loading) (hp : s.loader.phase = .image) (read : ImageRead) :
    exec (.imageReadAttempt read) s = .next (settle (endAttempt (attemptResult read) (imageOps read) s)) := by
  simp only [exec, execImageReadAttempt, finish, State.loadingIn_of hn hp, if_true]

theorem endAttempt_retry {r : ImageStatus × List Byte} (hr : r.1 ≠ .good) (ha : s.loader.attempts < 2)
    (ops : List BusOp) :
    endAttempt r ops s = beginTransaction .image { s with loader := s.loader.attempted r.1 ops } := by
  unfold endAttempt
  dsimp only
  rw [if_neg hr, if_pos (Nat.succ_lt_succ ha)]
  rfl

theorem endAttempt_last {r : ImageStatus × List Byte} (hr : r.1 ≠ .good) (ha : 2 ≤ s.loader.attempts)
    (ops : List BusOp) :
    endAttempt r ops s = imageDecided (badDraft s.loader.strap (s.loader.attempted r.1 ops)) s := by
  unfold endAttempt
  dsimp only
  rw [if_neg hr, if_neg (by omega)]
  rfl

theorem endAttempt_good (image : List Byte) (ops : List BusOp) : endAttempt (.good, image) ops s =
    imageDecided (goodDraft image s.loader.strap (s.loader.attempted .good ops)) s := by
  unfold endAttempt
  rw [if_pos rfl]
  rfl

/-- A node bound for the ring goes on to the epoch (R178). -/
theorem imageDecided_epoch {l : Loader} {d : Draft} (hd : l.draft = some d) (hnext : d.next ≠ .transit) :
    imageDecided l s = beginTransaction (.epochRead 0) { s with loader := l } := by
  unfold imageDecided
  simp only [hd, hnext, if_false]

/-- A node bound for TRANSIT ends LOADING at once (R176). -/
theorem imageDecided_transit {l : Loader} {d : Draft} (hn : s.loader.nodeState = .loading) (hd : l.draft = some d)
    (hnext : d.next = .transit) :
    ∃ r, imageDecided l s = { fixConfiguration d { s with loader := l } with report := r } := by
  obtain ⟨r, -, -, -, hends⟩ := endLoading_starts (s := s) (o := { s with loader := l }) hd rfl hn
  refine ⟨r, ?_⟩
  rw [← hends (by simp [hnext])]
  unfold imageDecided
  simp only [hd, hnext, if_true]

/-- What the node number of a good image decides (R176). -/
theorem goodDraft_node (image : List Byte) (strap : BitVec 6) (l : Loader) :
    ∃ d, (goodDraft image strap l).draft = some d ∧
      goodNode (byteAt image 6) strap =
        (d.settings.nodeNumber, d.next, (goodDraft image strap l).warnings.nodeStrapped) := ⟨_, rfl, rfl⟩

end Attempt

end Sys2Proof.Machine

open Sys2Proof Sys2Proof.Machine

/-- Settles O53: the status of an attempt is that of the first failed check, by the lemmas on the checks of the header
and of the whole image; the attempt then ends by one of `endAttempt_retry`, `endAttempt_last` and `endAttempt_good`. -/
theorem imageReadAttemptsAreJudged : Obligations.ImageReadAttemptsAreJudged := by
  intro s hn hp strapped made addressing
  refine ⟨fun _ => rfl, rfl, rfl, rfl, rfl, rfl, rfl, fun given h8 => ?_, fun given h8 => ?_, fun read hbad => ?_,
    fun read image hgood => ?_⟩
  · obtain ⟨hheader, hbody⟩ := imageOps_bytes h8
    exact ⟨hheader, fun hst => hbody (or_assoc.mpr hst)⟩
  · intro st tables
    have hstatus {f : ImageStatus} (h : headerFault given = some f) : st = f :=
      congrArg Prod.fst (attemptResult_header ((headerFault_header h8).trans h))
    refine ⟨fun hmagic => hstatus (if_pos hmagic), fun hmagic hformat => hstatus ?_,
      fun hmagic hformat hlength => hstatus ?_, fun hmagic hformat hmin hmax hlen => ?_⟩
    · rw [headerFault, if_neg (not_not.mpr hmagic), if_pos hformat]
    · have hfield : imageLength given < 32 ∨ 2000 < imageLength given := hlength
      rw [headerFault, if_neg (not_not.mpr hmagic), if_neg (not_not.mpr hformat), if_pos hfield]
    · obtain ⟨hfault, hgood⟩ := attemptResult_of_header (headerFault_none hmagic hformat hmin hmax) hlen hmin
      refine ⟨fun hcrc => hfault _ (if_pos hcrc), fun hcrc => ⟨fun hshort => hfault _ ?_, fun h44 htables => hgood ?_⟩⟩
      · have hlayout : given.length < 44 ∨ given.length - 2 < tablesEnd given := by
          unfold tablesEnd
          omega
        rw [bodyFault, if_neg (not_not.mpr hcrc), if_pos hlayout]
      · have hlayout : ¬ (given.length < 44 ∨ given.length - 2 < tablesEnd given) := by
          unfold tablesEnd
          omega
        rw [bodyFault, if_neg (not_not.mpr hcrc), if_neg hlayout]
  · have hexec := exec_imageReadAttempt hn hp read
    refine ⟨fun hfirst => ?_, fun hlast hs => ?_, fun hlast hs => ?_⟩
    · rw [hexec, endAttempt_retry hbad hfirst, ← hp]
      rfl
    · have hnext : badNode s.loader.strap = .fallback := if_neg (by tauto)
      have hring : badNode s.loader.strap ≠ .transit := by simp [hnext]
      rw [endAttempt_last hbad hlast, imageDecided_epoch rfl hring] at hexec
      exact ⟨_, hexec, hn, rfl, rfl, rfl, rfl, rfl, _, rfl, hnext, rfl, rfl⟩
    · have hnext : badNode s.loader.strap = .transit := if_pos (by tauto)
      obtain ⟨r, hr⟩ := imageDecided_transit (s := s)
        (l := badDraft s.loader.strap (s.loader.attempted (attemptResult read).1 (imageOps read))) hn rfl hnext
      rw [endAttempt_last hbad hlast, hr] at hexec
      exact ⟨_, hexec, hnext, rfl, rfl⟩
  · have hexec := exec_imageReadAttempt hn hp read
    obtain ⟨d, hd, hnode⟩ := goodDraft_node image s.loader.strap (s.loader.attempted .good (imageOps read))
    rw [goodNode_eq] at hnode
    obtain ⟨hnumber, hrest⟩ := Prod.mk.inj hnode
    obtain ⟨hnext, hflag⟩ := Prod.mk.inj hrest
    rw [hgood, endAttempt_good] at hexec
    refine ⟨fun hlo hhi => ?_, fun hno hs => ?_, fun hno hs => ?_⟩
    · have hvalid : 1 ≤ (byteAt image 6).toNat ∧ (byteAt image 6).toNat ≤ 62 := ⟨hlo, hhi⟩
      rw [if_pos hvalid] at hnumber
      rw [if_pos (.inl hvalid)] at hnext
      rw [imageDecided_epoch hd (by simp [← hnext])] at hexec
      exact ⟨_, d, hexec, rfl, rfl, rfl, rfl, hd, hnext.symm, hnumber.symm, hflag.symm.trans (by simp [hvalid])⟩
    · have hvalid : ¬ (1 ≤ (byteAt image 6).toNat ∧ (byteAt image 6).toNat ≤ 62) := by omega
      rw [if_neg hvalid] at hnumber
      rw [if_pos (.inr hs)] at hnext
      rw [imageDecided_epoch hd (by simp [← hnext])] at hexec
      exact ⟨_, d, hexec, rfl, rfl, hd, hnext.symm, hnumber.symm, hflag.symm.trans (decide_eq_true hvalid)⟩
    · have hvalid : ¬ (1 ≤ (byteAt image 6).toNat ∧ (byteAt image 6).toNat ≤ 62) := by omega
      rw [if_neg (not_or.mpr ⟨hvalid, hs⟩)] at hnext
      obtain ⟨r, hr⟩ := imageDecided_transit (s := s) hn hd hnext.symm
      rw [hr] at hexec
      exact ⟨_, hexec, hnext.symm, rfl, hflag.symm.trans (decide_eq_true hvalid)⟩
end

section
open Sys2Proof Sys2Proof.Machine

/-- Settles O5: the start commands are `takeStart`, after which every block has its value (`takeStart_started`). -/
theorem startsTakeEveryBlockBack : Obligations.StartsTakeEveryBlockBack := by
  refine ⟨fun rst e w tap straps s => ?_, fun s => ?_, fun straps s hn => ?_, fun straps s hn => ?_⟩
  · refine ⟨_, rfl, takeStart_started .., ?_⟩
    cases rst
    · exact ⟨rfl, rfl, rfl, rfl, fun _ => rfl, nofun⟩
    · exact ⟨rfl, rfl, rfl, rfl, nofun, fun _ => ⟨rfl, rfl, rfl⟩⟩
  · exact ⟨_, rfl, takeStart_started .., rfl, rfl, rfl, rfl, rfl⟩
  · simp only [exec, execRstRise, finish, if_pos hn]
    rfl
  · simp only [exec, execRstRise, finish, if_neg hn]

end
section
/-! ## Node commands (R180, R181) -/

namespace Sys2Proof.Machine

theorem isIgnored_iff (f : List Byte) (s : State) : isIgnored f s = true ↔ typeField f ≠ s.cfg.controlType ∨
    (s.loader.nodeState = .transit ∧ byteAt f (typeOffset f + 2) ≠ 5) := by
  simp [isIgnored, commandCode]

theorem exec_nodeCommand {b : Nat} {rest : List Nat} {s : State} (h : s.commandIn = b :: rest) : exec .nodeCommand s =
    .next (settle (readCommand (s.buffer b).bytes (release b { s with commandIn := rest }))) := by
  simp only [exec, execNodeCommand, finish, h]

section Read
variable {f : List Byte} {s : State}

theorem readCommand_ignored (h : isIgnored f s = true) :
    readCommand f s = s.countReport fun k => { k with ignored := raise k.ignored } := if_pos h

theorem readCommand_dropped (h : ¬ isIgnored f s = true) (hfull : 2 ≤ s.report.queue.length) :
    readCommand f s = s.countReport fun k => { k with cmdDrop := raise k.cmdDrop } := by
  rw [readCommand, if_neg h, if_pos hfull]

theorem readCommand_queued (h : ¬ isIgnored f s = true) (hroom : s.report.queue.length < 2) :
    readCommand f s = { s with report := { s.report with
      queue := s.report.queue ++ [⟨commandCode f, commandPage f, sourceAddress f, none, false⟩]
      counters := { s.report.counters with commands := raise s.report.counters.commands } } } := by
  rw [readCommand, if_neg h, if_neg (Nat.not_le.mpr hroom)]
  rfl

end Read

end Sys2Proof.Machine

open Sys2Proof Sys2Proof.Machine

/-- Settles O57, by the three things `readCommand` can do with a frame. -/
theorem nodeCommandsJoinTheQueue : Obligations.NodeCommandsJoinTheQueue := by
  intro b rest s h f ignored after
  have hiff : isIgnored f (release b { s with commandIn := rest }) = true ↔ ignored := isIgnored_iff ..
  rw [exec_nodeCommand h]
  refine ⟨fun hi => ?_, fun hi hfull => ?_, fun hi hroom => ?_⟩
  · rw [readCommand_ignored (hiff.mpr hi)]
    rfl
  · rw [readCommand_dropped (mt hiff.mp hi) hfull]
    rfl
  · rw [readCommand_queued (mt hiff.mp hi) hroom]
    rfl

end

section
/-! ## The reset state (R167, R168) -/

open Sys2Proof Sys2Proof.Machine

/-- Settles O4: the reset state unfolds to its own power-on start `takeStart .power State.reset`, and a start gives
every law. -/
theorem lawsHoldAtReset : Obligations.LawsHoldAtReset := by
  have hstarted : State.reset.Started := takeStart_started .power State.reset
  obtain ⟨hports, hwindow⟩ := (portsSafe_iff _).mp (State.PortsSafe.start State.reset .power)
  refine ⟨hstarted, hports, hwindow, State.reset.sourceLaw_iff.mpr fun node => ?_,
    (poolForm_holds _).mp (poolForm.start .power State.reset),
    (holdsWith_nil _).mp (.started hstarted), (queueDepths_holds _).mp (queueDepths.start .power State.reset),
    (watchSafe_iff _).mp (State.WatchSafe.start State.reset .power), State.RingLaw.start .power State.reset,
    State.RollLaw.started rfl, State.LoaderLaw.start .power State.reset,
    (repeaterSafe_iff _).mp (State.RepeaterSafe.start State.reset .power), .started hstarted,
    (changeList_holds _).mp (changeList.start .power State.reset),
    (reportLists_holds _).mp (reportLists.start .power State.reset), ?_⟩
  · exact (record_takeStart .power State.reset node).symm ▸ SourceRecord.empty_law
  · exact ⟨rfl, rfl, rfl, nofun⟩

end

section
/-! ## Report frames (R91, R186, R187) -/

namespace Sys2Proof.Machine

section Frames
variable {s : State}

/-- Something waits to be reported (R186). -/
def State.Waits (s : State) : Prop :=
  s.report.notices ≠ [] ∨ s.report.changes ≠ [] ∨ s.report.periodDue = true

/-- The composing of one report frame, of which the report unit then has `left` (R186). -/
def composeReport (content : State → List Byte) (left : ReportUnit → ReportUnit) (s : State) : State :=
  composeLocal content false (fun t => reportMade { t with report := left t.report }) s

/-- The state in which the report unit was refused a buffer and has restarted the hold (R91, R186). -/
def State.takeRefused (s : State) : State := { s with
  pool := { s.pool with refused := raise s.pool.refused }
  report := { s.report with hold := some ⟨s.clock.timerUnits, 1000⟩ } }

/-! ### What waits -/

theorem composeWaiting_notice {n : Notice} {rest : List Notice} (h : s.report.notices = n :: rest) :
    composeWaiting s = composeReport (noticeContent n) (fun r => { r with notices := r.notices.tail }) s := by
  unfold composeWaiting
  rw [h]
  rfl

theorem composeWaiting_node (hn : s.report.notices = []) (h : s.report.changes ≠ [] ∨ s.report.periodDue = true) :
    composeWaiting s =
      composeReport nodeReportContent (fun r => { r with changes := [], more := false, periodDue := false }) s := by
  unfold composeWaiting
  rw [hn]
  exact if_pos h

theorem composeWaiting_nothing (h : ¬ s.Waits) : composeWaiting s = s := by
  obtain ⟨hn, hlist⟩ := not_or.mp h
  unfold composeWaiting
  rw [not_not.mp hn]
  exact if_neg hlist

/-- What waits is a notice, or else calls for a node report. -/
theorem State.Waits.cases (h : s.Waits) : (∃ n rest, s.report.notices = n :: rest) ∨
    s.report.notices = [] ∧ (s.report.changes ≠ [] ∨ s.report.periodDue = true) := by
  obtain hn | hlist := h
  · exact .inl (List.exists_cons_of_ne_nil hn)
  · cases hn : s.report.notices with
    | nil => exact .inr ⟨rfl, hlist⟩
    | cons n rest => exact .inl ⟨n, rest, rfl⟩

/-! ### One frame -/

section Compose
variable (content : State → List Byte) (left : ReportUnit → ReportUnit)

/-- Refused its buffer, a report leaves what waited, and the hold restarts (R91, R186). -/
theorem composeReport_refused (hf : s.free < 49) : composeReport content left s = s.takeRefused := by
  have htake : generatorTake .bulk s = (none, { s with pool := { s.pool with refused := raise s.pool.refused } }) :=
    if_neg (Nat.not_le.mpr hf)
  rw [composeReport, composeLocal, htake]
  rfl

theorem composeReport_sent (hf : 49 ≤ s.free) :
    let u : State := { s with pool := s.pool.take.2 }
    let t := sendLocal s.pool.take.1 (content u) false u
    composeReport content left s = reportMade { t with report := left t.report } := by
  have htake : generatorTake .bulk s = (some s.pool.take.1, { s with pool := s.pool.take.2 }) := if_pos hf
  rw [composeReport, composeLocal, htake]

/-- A report whose entry joins the tap BULK queue (R186). -/
theorem composeReport_joins (hf : 49 ≤ s.free) (hd : s.isDown .tap = false) (hl : (s.eg .tap).bulk.length < 96) :
    let bytes := pad60 (content { s with pool := s.pool.take.2 })
    composeReport content left s = reportMade
      { s.setEg .tap { s.eg .tap with
          bulk := (s.eg .tap).bulk ++ [⟨s.pool.take.1, .localFrame false, s.clock.timerUnits⟩] } with
        pool := ((s.pool.composed bytes).addHold s.pool.take.1).release s.pool.take.1
        report := left s.report } := by
  intro bytes
  rw [composeReport_sent content left hf, sendLocal_joins (s := { s with pool := s.pool.take.2 }) hd hl]
  rfl

/-- A report whose entry is refused by a DOWN tap port or dropped by a full queue is made all the same (R93, R186). -/
theorem composeReport_dropped (hf : 49 ≤ s.free) (hj : ¬ (s.isDown .tap = false ∧ (s.eg .tap).bulk.length < 96)) :
    let bytes := pad60 (content { s with pool := s.pool.take.2 })
    ∃ counters, composeReport content left s = reportMade
      { s.setEg .tap { s.eg .tap with counters := counters } with
        pool := (s.pool.composed bytes).release s.pool.take.1
        report := left s.report } := by
  intro bytes
  let u : State := { s with pool := s.pool.take.2 }
  obtain ⟨counters, hsend⟩ := sendLocal_refused (s := u) hj s.pool.take.1 (content u) false
  rw [Bool.or_false] at hsend
  exact ⟨counters, by rw [composeReport_sent content left hf, hsend]; rfl⟩

/-- A report that has been made is counted and restarts the hold (R186). -/
theorem composeReport_made (hf : 49 ≤ s.free) : (composeReport content left s).report = { left s.report with
    hold := some ⟨s.clock.timerUnits, 1000⟩
    counters := { (left s.report).counters with reports := raise (left s.report).counters.reports } } := by
  by_cases hj : s.isDown .tap = false ∧ (s.eg .tap).bulk.length < 96
  · rw [composeReport_joins content left hf hj.1 hj.2]
    rfl
  · obtain ⟨counters, he⟩ := composeReport_dropped content left hf hj
    rw [he]
    rfl

/-- The entry of a report that joins holds the frame's buffer alone (R91, R186). -/
theorem composeReport_entry (hwf : s.pool.wf = true) (hf : 49 ≤ s.free) (hd : s.isDown .tap = false)
    (hl : (s.eg .tap).bulk.length < 96) :
    let t := composeReport content left s
    t.free + 1 = s.free ∧
      t.eg .tap = { s.eg .tap with
        bulk := (s.eg .tap).bulk ++ [⟨s.pool.take.1, .localFrame false, s.clock.timerUnits⟩] } ∧
      t.buffer s.pool.take.1 = ⟨1, pad60 (content { s with pool := s.pool.take.2 }), false⟩ := by
  intro t
  obtain ⟨hget, hheld⟩ := Pool.composed_held (pad60 (content { s with pool := s.pool.take.2 })) hwf
    (lt_of_lt_of_le (by decide) hf)
  have ht : t = _ := composeReport_joins content left hf hd hl
  rw [ht]
  exact ⟨hheld, rfl, congrArg (·.getD ⟨0, [], false⟩) hget⟩

/-- A report whose entry does not join has given its buffer back (R87, R93). -/
theorem composeReport_ended (hwf : s.pool.wf = true) (hf : 49 ≤ s.free)
    (hj : ¬ (s.isDown .tap = false ∧ (s.eg .tap).bulk.length < 96)) :
    let t := composeReport content left s
    t.free = s.free ∧ (t.eg .tap).bulk = (s.eg .tap).bulk := by
  intro t
  obtain ⟨counters, ht⟩ : ∃ _, t = _ := composeReport_dropped content left hf hj
  rw [ht]
  exact ⟨Pool.composed_dropped _ hwf (lt_of_lt_of_le (by decide) hf), rfl⟩

/-- A report, made or refused its buffer, restarts the hold, and calls for no start. -/
theorem composeReport_report (hleft : (left s.report).restartDue = s.report.restartDue) :
    (composeReport content left s).report.hold ≠ none ∧
      (composeReport content left s).report.restartDue = s.report.restartDue := by
  by_cases hf : 49 ≤ s.free
  · rw [composeReport_made content left hf]
    exact ⟨nofun, hleft⟩
  · rw [composeReport_refused content left (Nat.not_le.mp hf)]
    exact ⟨nofun, rfl⟩

end Compose

/-! ### The service at the end of a command -/

theorem composeWaiting_refused (hw : s.Waits) (hf : s.free < 49) : composeWaiting s = s.takeRefused := by
  obtain ⟨n, rest, hn⟩ | ⟨hn, hlist⟩ := hw.cases
  · rw [composeWaiting_notice hn, composeReport_refused _ _ hf]
  · rw [composeWaiting_node hn hlist, composeReport_refused _ _ hf]

theorem composeWaiting_report (hw : s.Waits) :
    (composeWaiting s).report.hold ≠ none ∧ (composeWaiting s).report.restartDue = s.report.restartDue := by
  obtain ⟨n, rest, hn⟩ | ⟨hn, hlist⟩ := hw.cases
  · rw [composeWaiting_notice hn]
    exact composeReport_report _ _ rfl
  · rw [composeWaiting_node hn hlist]
    exact composeReport_report _ _ rfl

/-- The service that finds the hold run out in a ring member composes what waits (R186). -/
theorem reportService_open (hm : s.member = true) (hh : s.report.hold = none) :
    reportService s = composeWaiting s := by
  rw [reportService, hm, hh]
  rfl

theorem reportService_quiet (h : s.member = false ∨ s.report.hold ≠ none ∨ ¬ s.Waits) : reportService s = s := by
  unfold reportService
  split
  · next hserve =>
    obtain ⟨hm, hh⟩ : s.member = true ∧ s.report.hold = none := by simpa using hserve
    obtain hout | hrun | hw := h
    · exact absurd (hm.symm.trans hout) nofun
    · exact absurd hh hrun
    · exact composeWaiting_nothing hw
  · rfl

theorem takeStart_congr (c : StartCause) {t : State} (h : SameBut s t) : takeStart c t = takeStart c s := by
  simp only [takeStart, h.pending, h.pins, h.loader]

/-- What waits and is composed before a command ends would have been composed as it ends: the hold that the report
restarts lets no second one follow (R186). -/
theorem settle_composeWaiting (hm : s.member = true) (hh : s.report.hold = none) :
    settle (composeWaiting s) = settle s := by
  by_cases hw : s.Waits
  · obtain ⟨hhold, hdue⟩ := composeWaiting_report hw
    cases hd : s.report.restartDue with
    | true =>
      rw [settle_restart hd, settle_restart (hdue.trans hd)]
      exact takeStart_congr .command (.composeWaiting s)
    | false =>
      rw [settle_of_not_restart hd, settle_of_not_restart (hdue.trans hd), reportService_open hm hh,
        reportService_quiet (.inr (.inl hhold))]
  · rw [composeWaiting_nothing hw]

end Frames

/-! ### The bytes of a node report (R195, R196) -/

/-- The level of the two lines as a number (R196). -/
theorem lineFlags_eq (alarm healthy : Bool) : flagByte alarm ||| flagByte healthy <<< 1 =
    natByte ((if alarm then 1 else 0) + (if healthy then 2 else 0)) := by
  cases alarm <;> cases healthy <;> decide

/-! ### The timers' commands -/

section Expiries
variable {s : State}

theorem exec_reportPeriodExpiry (h : s.clock.due s.report.period = true) : exec .reportPeriodExpiry s =
    .next (settle { s with report := { s.report with
      periodDue := true, period := rearmed s.report.period (s.cfg.reportPeriod * 10000) } }) := by
  simp only [exec, execReportPeriodExpiry, finish, if_pos h]

theorem exec_reportPeriodExpiry_of_not (h : s.clock.due s.report.period = false) :
    exec .reportPeriodExpiry s = .next (settle s) := by
  simp [exec, execReportPeriodExpiry, finish, h]

/-- The state in which the hold has run out. -/
def State.holdOver (s : State) : State := { s with report := { s.report with hold := none } }

theorem exec_reportHoldExpiry (h : s.clock.due s.report.hold = true) : exec .reportHoldExpiry s =
    .next (settle (if (composeReply s.holdOver).member then composeWaiting (composeReply s.holdOver)
      else composeReply s.holdOver)) := by
  simp only [exec, execReportHoldExpiry, finish, if_pos h]
  rfl

theorem exec_reportHoldExpiry_of_not (h : s.clock.due s.report.hold = false) :
    exec .reportHoldExpiry s = .next (settle s) := by
  simp [exec, execReportHoldExpiry, finish, h]

/-- With the hold run out still, what waits is composed as the command ends. -/
theorem exec_reportHoldExpiry_open (h : s.clock.due s.report.hold = true)
    (hh : (composeReply s.holdOver).report.hold = none) :
    exec .reportHoldExpiry s = .next (settle (composeReply s.holdOver)) := by
  rw [exec_reportHoldExpiry h]
  split
  · next hm => rw [settle_composeWaiting hm hh]
  · rfl

/-- No reply waits where the queue is empty, its head not carried out or its reply made (R183). -/
theorem composeReply_none (h : ∀ k, s.report.queue.head? = some k → k.result = none ∨ k.replied = true) :
    composeReply s = s := by
  unfold composeReply
  split
  · rfl
  · next k rest hq =>
    obtain hr | hk := h k (by rw [hq]; rfl)
    · rw [hr]
    · split
      · rfl
      · exact if_pos hk

/-- A reply that is sent leaves the hold (R183). -/
theorem composeReply_hold {k : Command} {rest : List Command} {r : CommandResult} (hq : s.report.queue = k :: rest)
    (hr : k.result = some r) (hk : k.replied = false) (hf : 49 ≤ s.free) :
    (composeReply s).report.hold = s.report.hold := by
  by_cases hj : s.isDown .tap = false ∧ (s.eg .tap).bulk.length < 96
  · rw [composeReply_joins hq hr hk hf hj.1 hj.2]
  · obtain ⟨counters, he⟩ := composeReply_dropped hq hr hk hf hj
    rw [he]

/-- The expiry that finds the pool refusing the reply refuses what waits to be reported as well (R91, R186). -/
theorem exec_reportHoldExpiry_refused {_ : Decidable (s.member = true ∧ s.Waits)} {k : Command} {rest : List Command}
    {r : CommandResult} (h : s.clock.due s.report.hold = true) (hq : s.report.queue = k :: rest)
    (hr : k.result = some r) (hk : k.replied = false) (hf : s.free < 49) :
    exec .reportHoldExpiry s = .next (settle { s with
      pool := { s.pool with
        refused := raise (if s.member = true ∧ s.Waits then raise s.pool.refused else s.pool.refused) }
      report := { s.report with hold := some ⟨s.clock.timerUnits, 1000⟩ } }) := by
  have hreply : composeReply s.holdOver = s.takeRefused := composeReply_refused (s := s.holdOver) hq hr hk hf
  rw [exec_reportHoldExpiry h, hreply]
  by_cases hm : s.takeRefused.member = true
  · rw [if_pos hm]
    by_cases hw : s.Waits
    · rw [if_pos ⟨hm, hw⟩, composeWaiting_refused (s := s.takeRefused) hw hf]
      rfl
    · rw [if_neg fun hc => hw hc.2, composeWaiting_nothing (s := s.takeRefused) hw]
      rfl
  · rw [if_neg hm, if_neg fun hc => hm hc.1]
    rfl

end Expiries

/-- Every command but the two that take a start themselves ends with `settle` (log 12). -/
theorem exec_settles (c : Instr) (s : State) :
    c = .rstFall ∨ (∃ r e w t x, c = .powerOn r e w t x) ∨ ∃ u, exec c s = .next (settle u) := by
  cases c with
  | powerOn r e w t x => exact .inr (.inl ⟨r, e, w, t, x, rfl⟩)
  | rstFall => exact .inl rfl
  | _ => exact .inr (.inr ⟨_, rfl⟩)

end Sys2Proof.Machine

open Sys2Proof Sys2Proof.Machine

/-- Settles O59: a report frame joins, is dropped or is refused its buffer, by the lemmas on `composeReport`; the hold's
expiry composes nothing that the end of the command would not, but after a refused reply. -/
theorem reportTimersSendOneReport : Obligations.ReportTimersSendOneReport := by
  unfold Obligations.ReportTimersSendOneReport
  intro header flag byte ofNotice page0 record item ofNode waits lines sends
  have hnotice (n : Notice) (u : State) : noticeContent n u = ofNotice n u := by
    cases n <;> rfl
  have hpage (u : State) : summary u = page0 u := by
    rw [summary, lineFlags_eq]
    rfl
  have hitem (u : State) (i : Item) : i.bytes u = item u i := by
    cases i with
    | port p => cases p <;> rfl
    | lane x => cases x <;> rfl
    | _ => rfl
  have hnode (u : State) : nodeReportContent u = ofNode u := by
    simp only [nodeReportContent, hpage, hitem]
    rfl
  have hsends (s : State) (content : State → List Byte) (left : ReportUnit → ReportUnit)
      (hdue : s.report.restartDue = false) (hserve : reportService s = composeReport content left s)
      (hwf : s.pool.wf = true) (hf : 49 ≤ s.free) (hleft : (left s.report).counters = s.report.counters) :
      sends s (settle s) (content { s with pool := s.pool.take.2 }) (left s.report) := by
    have hsame : SameBut s (settle s) := .settle hdue
    have ht : settle s = followConditions (composeReport content left s) := hserve ▸ settle_of_not_restart hdue
    have hring {p : Port} (hp : p ≠ .tap) : (composeReport content left s).eg p = s.eg p :=
      hserve ▸ reportService_eg hp s
    have hroll : (composeReport content left s).roll = s.roll := hserve ▸ reportService_roll s
    have hmade := composeReport_made content left hf
    have hentry := composeReport_entry content left hwf hf
    have hended := composeReport_ended content left hwf hf
    rw [ht] at hsame ⊢
    generalize composeReport content left s = r at *
    rw [hleft] at hmade
    refine ⟨?_, fun hj => hentry hj.1 hj.2, hended, hring nofun, hring nofun, hsame.ports, hsame.sources, hsame.slots,
      hsame.check, hroll, hsame.time, hsame.tagger, hsame.filter, hsame.repeater, hsame.loader, hsame.clock⟩
    rw [followConditions, hmade]
  refine ⟨exec_settles, fun s hdue => ?_, fun s => ?_⟩
  · intro t u
    have ht : t = followConditions (reportService s) := settle_of_not_restart hdue
    refine ⟨fun hquiet => ?_, fun hm hh hwf hf => ⟨fun n rest hn => ?_, fun hn hlist => ?_⟩, fun hm hh hw hf => ?_⟩
    · rw [ht, reportService_quiet hquiet]
      exact ⟨rfl, rfl⟩
    · have hserve := (reportService_open hm hh).trans (composeWaiting_notice hn)
      have hsent := hsends s _ _ hdue hserve hwf hf rfl
      rw [hnotice, hn] at hsent
      exact hsent
    · have hserve := (reportService_open hm hh).trans (composeWaiting_node hn hlist)
      have hsent := hsends s _ _ hdue hserve hwf hf rfl
      rw [hnode] at hsent
      exact hsent
    · rw [ht, reportService_open hm hh, composeWaiting_refused hw hf]
      exact ⟨rfl, rfl⟩
  · refine ⟨exec_reportPeriodExpiry, exec_reportPeriodExpiry_of_not, fun hdue _ => ?_, exec_reportHoldExpiry_of_not⟩
    intro run
    refine ⟨fun hnone => ?_, fun k rest r hq hr hk => ⟨fun hf => ?_, fun hf => ?_⟩⟩
    · have hreply : composeReply s.holdOver = run := composeReply_none (s := s.holdOver) hnone
      rw [exec_reportHoldExpiry_open hdue (by rw [hreply]), hreply]
    · exact exec_reportHoldExpiry_open hdue (composeReply_hold (s := s.holdOver) hq hr hk hf)
    · exact exec_reportHoldExpiry_refused hdue hq hr hk hf
end

section
/-! ## The alarm conditions and the two lines (R188, R189) -/

namespace Sys2Proof.Machine

/-! ### The bits of the conditions -/

theorem testBit_bitsOf (l : List Bool) (i : Nat) : (bitsOf l).testBit i = l.getD i false := by
  induction l generalizing i with
  | nil => simp [bitsOf]
  | cons b rest ih =>
    have hbit : bitsOf (b :: rest) = Nat.bit b (bitsOf rest) := by
      rw [bitsOf, Nat.bit_val]
      cases b <;> simp [Nat.add_comm]
    rw [hbit]
    cases i with
    | zero => exact Nat.testBit_bit_zero b _
    | succ i => exact (Nat.testBit_bit_succ i b _).trans (ih i)

section Lines
variable (s : State)

theorem activeConditions_getLsbD {i : Nat} (hi : i < 10) :
    s.activeConditions.getLsbD i = true ↔ s.loaded = true ∧ s.causes.getD i false = true := by
  unfold State.activeConditions
  cases s.loaded
  · simp
  · rw [if_pos rfl, BitVec.getLsbD_ofNat, testBit_bitsOf]
    simp [hi]

theorem loaded_iff : s.loaded = true ↔
    s.loader.nodeState = .running ∨ s.loader.nodeState = .fallback ∨ s.loader.nodeState = .transit := by
  unfold State.loaded
  cases s.loader.nodeState <;> decide

theorem State.lostSlots_pos : 0 < s.lostSlots ↔ ∃ w ∈ s.slots.toList, w.status = .lost := by
  simp [State.lostSlots]

theorem State.laneDownSlots_pos : 0 < s.laneDownSlots ↔
    ∃ w ∈ s.slots.toList, w.lanes.e.status = .down ∨ w.lanes.w.status = .down := by
  simp [State.laneDownSlots, Slot.laneIsDown]

theorem State.oneLaneRecords_pos : 0 < s.oneLaneRecords ↔
    ∃ r ∈ s.sources.toList, r.live = true ∧ r.path ≠ .both := by
  simp [State.oneLaneRecords]

/-! ### The lines -/

theorem alarmLevel_iff : s.alarmLevel = true ↔
    ∃ i, i < 10 ∧ s.activeConditions.getLsbD i = true ∧ (i = 9 ∨ s.cfg.alarmMask.getLsbD i = false) := by
  have hbit {i : Nat} (hi : i < 10) : s.unmasked.getLsbD i = true ↔
      s.activeConditions.getLsbD i = true ∧ (i = 9 ∨ s.cfg.alarmMask.getLsbD i = false) := by
    have hconfig : i = 9 → s.cfg.alarmMask.getLsbD i = false := fun h => BitVec.getLsbD_of_ge _ _ (by omega)
    rw [or_iff_right_of_imp hconfig]
    simp [State.unmasked, hi]
  have hzero : s.alarmLevel = true ↔ s.unmasked ≠ 0 := bne_iff_ne
  rw [hzero]
  constructor
  · intro hne
    by_contra hno
    refine hne (BitVec.eq_of_getLsbD_eq fun i hi => ?_)
    show s.unmasked.getLsbD i = (0#10).getLsbD i
    rw [BitVec.getLsbD_zero]
    exact Bool.eq_false_iff.mpr fun hset => hno ⟨i, hi, (hbit hi).mp hset⟩
  · rintro ⟨i, hi, hset⟩ he
    have := (hbit hi).mpr hset
    rw [he] at this
    simp at this

theorem healthyLevel_iff : s.healthyLevel = true ↔ s.loader.nodeState = .running ∧ s.check.ring = .closed ∧
    (s.port .east).state = .up ∧ (s.port .west).state = .up ∧ s.alarmLevel = false := by
  simp [State.healthyLevel, and_assoc]

end Lines

/-! ### What every command ends with -/

/-- The report unit's conditions and lines are those of the present state. -/
structure State.LinesFollow (s : State) : Prop where
  conditions : s.report.conditions = s.activeConditions
  alarm : s.report.alarm = s.alarmLevel
  healthy : s.report.healthy = s.healthyLevel

theorem followConditions_linesFollow (s : State) : (followConditions s).LinesFollow := ⟨rfl, rfl, rfl⟩

/-- Before the end of LOADING no condition is active and neither line asserted (R188, R190). -/
theorem takeStart_linesFollow (c : StartCause) (s : State) : (takeStart c s).LinesFollow := by
  have hreport : (takeStart c s).report = {} := by
    obtain ⟨-, -, -, -, -, -, -, -, -, -, -, -, -, -, -, h, -⟩ := takeStart_started c s
    exact h
  have hstate := takeStart_nodeState c s
  generalize takeStart c s = t at *
  have hloaded : t.loaded = false := by obtain h | h := hstate <;> simp [State.loaded, h]
  have hnone : t.activeConditions = 0 := by simp [State.activeConditions, hloaded]
  refine ⟨?_, ?_, ?_⟩ <;> rw [hreport]
  · exact hnone.symm
  · simp [State.alarmLevel, State.unmasked, hnone]
  · obtain h | h := hstate <;> simp [State.healthyLevel, h]

theorem settle_linesFollow (s : State) : (settle s).LinesFollow := by
  obtain ⟨-, h⟩ | ⟨-, -, -, h⟩ | ⟨-, -, h⟩ := settle_cases s <;> rw [h]
  · exact takeStart_linesFollow ..
  · exact followConditions_linesFollow _
  · exact followConditions_linesFollow _

/-- The lines follow at the end of every command: one that takes a start, and one that settles. -/
theorem exec_linesFollow {c : Instr} {s t : State} (h : exec c s = .next t) : t.LinesFollow := by
  obtain ⟨cause, u, hstart⟩ | ⟨u, hend, -⟩ := exec_effective c s
  · obtain rfl : t = takeStart cause u := Host.Outcome.next.inj (h.symm.trans hstart)
    exact takeStart_linesFollow ..
  · obtain rfl : t = settle u := Host.Outcome.next.inj (h.symm.trans hend)
    exact settle_linesFollow u

end Sys2Proof.Machine

open Sys2Proof Sys2Proof.Machine

/-- Settles O60: the lines follow (`exec_linesFollow`), and each condition's bit is its cause
(`activeConditions_getLsbD`). -/
theorem commandsEndWithTheLines : Obligations.CommandsEndWithTheLines := by
  intro c s t hexec loaded ring active
  obtain ⟨hconditions, halarm, hhealthy⟩ := exec_linesFollow hexec
  have hactive (i : Fin 10) : active i ↔ loaded ∧ t.causes.getD i false = true := by
    show t.report.conditions.getLsbD i = true ↔ _
    rw [hconditions, activeConditions_getLsbD t i.isLt, loaded_iff]
  have hring (f : PortUnit → Bool) : (f (t.port .east) || f (t.port .west)) = true ↔ ring f := Bool.or_eq_true_iff
  have hports (f : PortUnit → Bool) :
      (f (t.port .east) || f (t.port .west) || f (t.port .tap)) = true ↔ ring f ∨ f (t.port .tap) = true :=
    Bool.or_eq_true_iff.trans (or_congr_left (hring f))
  have hlanes : (decide (0 < t.laneDownSlots) || decide (0 < t.oneLaneRecords)) = true ↔ _ :=
    Bool.or_eq_true_iff.trans (or_congr (decide_eq_true_iff.trans t.laneDownSlots_pos)
      (decide_eq_true_iff.trans t.oneLaneRecords_pos))
  refine ⟨(hactive 0).trans (and_congr_right' (hring fun u => u.state == .down)),
    (hactive 1).trans (and_congr_right' ((hports fun u => u.state == .degraded).trans (or_congr_right beq_iff_eq))),
    (hactive 2).trans (and_congr_right' beq_iff_eq),
    (hactive 3).trans (and_congr_right' (hring fun u => u.ind.foreign)),
    (hactive 4).trans (and_congr_right' (hring fun u => u.ind.crossed)), hactive 5,
    (hactive 6).trans (and_congr_right' (decide_eq_true_iff.trans t.lostSlots_pos)),
    (hactive 7).trans (and_congr_right' hlanes), (hactive 8).trans (and_congr_right' (hports fun u => u.ind.pool)),
    (hactive 9).trans (and_congr_right fun hl => ?_), ?_, ?_⟩
  · have hnode : t.loader.nodeState = .fallback ∨ t.loader.nodeState = .transit ↔ t.loader.nodeState ≠ .running := by
      obtain h | h | h := hl <;> simp [h]
    rw [← hnode]
    simp [State.causes]
  · rw [halarm, alarmLevel_iff, ← hconditions]
  · rw [hhealthy, healthyLevel_iff, ← halarm]
end

section
/-! ## The queue of commands: a step takes its front, and no command touches it -/

namespace Sys2Proof.Machine

/-- A start leaves the queue of commands (log 22). -/
@[simp] theorem takeStart_pending (c : StartCause) (s : State) : (takeStart c s).pending = s.pending := by
  cases c with
  | power =>
    unfold takeStart
    dsimp only
    split <;> rfl
  | line => rfl
  | command => rfl

/-- The updates that commands are made of leave the queue of commands. -/
theorem pending_kept (q : List Instr) : Kept fun s => s.pending = q where
  startRepeat := fun s out h => by
    obtain heq | ⟨e, d, heq⟩ := startRepeat_cases out s <;> rw [heq] <;> exact h
  repeatDone := by intros; assumption
  repeatTake := by intros; assumption
  giant := fun s p h => by rw [dropReception_eq]; exact h
  endError := fun s p o _ h => by rw [dropReception_eq]; exact h
  endIntact := by intros; assumption
  repeatLoses := by intros; assumption
  repeatJoins := by intros; assumption
  fallen := fun s p _ h => by rw [fallen_eq]; exact h
  zero := by intros; assumption
  start := fun s c h => (takeStart_pending c s).trans h
  enter := by intros; assumption
  begins := by intros; assumption
  retry := by intros; assumption
  decides := by intros; assumption
  transit := by intros; assumption
  fix := by intros; assumption

end Sys2Proof.Machine

open Sys2Proof Sys2Proof.Machine

/-- Settles O1, by the case of `step` in which a command waits. -/
theorem stepTakesTheFrontCommand : Obligations.StepTakesTheFrontCommand := by
  intro c rest s hfront
  rw [step, hfront]

/-- Settles O3: every command is made of updates that leave the queue (`pending_kept`), and `Kept.exec` carries that
through the command to the next state it answers. -/
theorem everyCommandCompletes : Obligations.EveryCommandCompletes :=
  fun c s => (pending_kept s.pending).exec c rfl
end
